-- ==== Sys2Proof/Word.lean ====
section
/-! DEFINITION. The word types of UTXC. Every quantity of the block is unsigned (R7). -/

namespace Sys2Proof

/-- One register, one selector, one opcode, one transmitted byte: 8 bits (R13, R33, R50). -/
abbrev Byte := BitVec 8

/-- An operand of the command word and CFG.CLK: CLOCK_W = BAUD_W = 32 bits (R6, R50, D3). -/
abbrev Operand := BitVec 32

/-- CFG.DIV: DIV_W = 12 bits, so that `0 ≤ CFG.DIV ≤ 4095` (R6, R11). -/
abbrev Divisor := BitVec 12

/-- One command: 72 bits, OP[71:64] A[63:32] B[31:0] (R50). -/
abbrev CommandWord := BitVec 72

end Sys2Proof
end

