-- ==== Sys2Proof/Config.lean ====
section
/-! DEFINITION. What an implementation fixes (the parameters of R6), the selector encodings (R53, R54, R55), and the free
values: constants with no body, so that nothing can be proved about which value they are. -/

namespace Sys2Proof

/-- The six device registers, by role (R13). -/
inductive Reg where
  | data     -- the byte to transmit (R14)
  | baudl    -- divisor bits 7:0 (R15)
  | baudh    -- divisor bits 11:8 (R15)
  | status   -- exposes the ready bit (R16)
  | modereg  -- mode selector (R17)
  | frame    -- stop-bit and character-size selectors (R18)
deriving DecidableEq, Repr, Inhabited

/-- READY_TEST: which ready predicate the transmit path uses (R6, R75). -/
inductive ReadyTest where
  | mask       -- normative, the default
  | threshold  -- the original's test, kept as a switch and never the default
deriving DecidableEq, Repr, Inhabited

/-- CFG.STOP is 0 (One) or 8 (Two) (R12, R53). -/
def legalStop (v : Byte) : Bool := v == 0 || v == 8

/-- CFG.CHSZ is 0 (FiveBit), 2 (SixBit), 4 (SevenBit) or 6 (EightBit) (R12, R54). -/
def legalChsz (v : Byte) : Bool := v == 0 || v == 2 || v == 4 || v == 6

/-- CFG.MODE is 0 (Disabled), 8 (Transmit), 16 (Receive) or 24 (TransmitAndReceive) (R12, R55). -/
def legalMode (v : Byte) : Bool := v == 0 || v == 8 || v == 16 || v == 24

/-- The open parameters of the block (R6): "A model takes each as an argument unless a decision fixes it." -/
structure Params where
  addrData    : Byte
  addrBaudl   : Byte
  addrBaudh   : Byte
  addrStatus  : Byte
  addrModereg : Byte
  addrFrame   : Byte
  /-- READY_POS, 0..7 -/
  readyPos    : Fin 8
  readyTest   : ReadyTest
  /-- RESET_STOP, RESET_CHSZ, RESET_MODE: the reset values of the three selectors, not given by the source (R27). -/
  resetStop   : Byte
  resetChsz   : Byte
  resetMode   : Byte
deriving DecidableEq, Repr, Inhabited

/-- The address of a register: "address is fixed at construction, never mutated" (R13, R37). -/
def Params.addr (p : Params) : Reg → Byte
  | .data    => p.addrData
  | .baudl   => p.addrBaudl
  | .baudh   => p.addrBaudh
  | .status  => p.addrStatus
  | .modereg => p.addrModereg
  | .frame   => p.addrFrame

/-- READY_BIT = 1 << READY_POS (R6, R16). -/
def Params.readyBit (p : Params) : Byte := 1#8 <<< p.readyPos.val

/-- What R6 demands of the parameters: the six addresses are pairwise distinct (D5) and the three reset selectors lie in
their domains. A block whose parameters break this is mis-configured and outside the spec (R32). -/
def Params.wf (p : Params) : Bool :=
  decide [p.addrData, p.addrBaudl, p.addrBaudh, p.addrStatus, p.addrModereg, p.addrFrame].Nodup
    && legalStop p.resetStop && legalChsz p.resetChsz && legalMode p.resetMode

namespace Config

/-- DIV_MAX (R6). -/
def divMax : Nat := 4095

/-- RESET_DIV (R6, R27). -/
def resetDiv : Divisor := 103

/-- RESET_CLK (R6, R27, D12). -/
def resetClk : Operand := 16000000

/-- The example column of R6 (general knowledge G1, G2), for smoke tests only. The source gives no example for the three
reset selectors; the zeros here are an arbitrary member of each domain. -/
def exampleParams : Params where
  addrData := 0xC6
  addrBaudl := 0xC4
  addrBaudh := 0xC5
  addrStatus := 0xC0
  addrModereg := 0xC1
  addrFrame := 0xC2
  readyPos := 5
  readyTest := .mask
  resetStop := 0
  resetChsz := 0
  resetMode := 0

/-- FREE VALUE. The parameters of the one block that `State.reset` describes (R6: OPEN). DESIGN CHOICE, log 3. -/
opaque freeParams : Params

/-- The parameters at `State.reset`: any set that R6 admits, with the normative ready test (R75). Nothing but `wf` and the
ready test can be proved of it. DESIGN CHOICE, log 3. -/
def params : Params :=
  let p := { freeParams with readyTest := .mask }
  if p.wf then p else exampleParams

/-- FREE VALUE. The peripheral's n-th answer to a register read, where State lists none (R41: a `draw`). log 2. -/
opaque statusDraw : Nat → Byte

end Config

end Sys2Proof
end

