-- ==== Sys2Proof/Syntax.lean ====
section
/-! DEFINITION. The commands of UTXC, one constructor per row of spec/opcode_table.json (R52). -/

namespace Sys2Proof

/-- The eight commands (R52). An operand is the number that stands in the command word: "the value in the command, the value
stored in the CFG field and the value later placed in the register are the same number" (R51). -/
inductive Instr where
  /-- EXTRACT: acquire ownership, once (R61). -/
  | extract
  /-- TAKEOVER: documented and refused (R62). -/
  | takeover
  /-- SETCB clock_hz, baud (R65). -/
  | setcb (clockHz baud : Operand)
  /-- SETSB value, the stop-bit selector (R67). -/
  | setsb (value : Byte)
  /-- SETCS value, the character-size selector (R68). -/
  | setcs (value : Byte)
  /-- SETMD value, the operating-mode selector (R69). -/
  | setmd (value : Byte)
  /-- COMMIT: write the configuration to the registers (R71). -/
  | commit
  /-- TXB byte: poll, then write DATA (R76). -/
  | txb (byte : Byte)
deriving DecidableEq, Repr

end Sys2Proof
end

