-- ==== Sys2Proof/WellFormed.lean ====
section
/-! DEFINITION. Which commands are well formed, and the names of the ways a command word can be reserved (R56). -/

namespace Sys2Proof

/-- Why a command word is reserved (R56). -/
inductive Reserved where
  /-- (a) OP is not one of the eight opcodes -/
  | opcode
  /-- (b) A is not zero in shape N or S -/
  | operandA
  /-- (b) B is not zero in shape N, or B[31:8] is not zero in shape S -/
  | operandB
  /-- (c) SETSB with a value outside {0, 8} -/
  | stopValue
  /-- (c) SETCS with a value outside {0, 2, 4, 6} -/
  | chszValue
  /-- (c) SETMD with a value outside {0, 8, 16, 24} -/
  | modeValue
  /-- (d) SETCB with baud = 0 -/
  | zeroBaud
deriving DecidableEq, Repr

/-- The check on a command's operands: the reason its word is reserved, or none (R56 (c), (d)). SETCB with clock_hz = 0 is a
legal word. -/
def Instr.reserved : Instr → Option Reserved
  | .extract      => none
  | .takeover     => none
  | .setcb _ baud => if baud = 0#32 then some .zeroBaud else none
  | .setsb v      => if legalStop v then none else some .stopValue
  | .setcs v      => if legalChsz v then none else some .chszValue
  | .setmd v      => if legalMode v then none else some .modeValue
  | .commit       => none
  | .txb _        => none

/-- A command whose word is legal (R52, R56). -/
def Instr.wellFormed (i : Instr) : Bool := i.reserved.isNone

end Sys2Proof
end

