-- ==== Sys2Proof/Decode.lean ====
section
/-! DEFINITION. The decoder, total on any 72-bit word and refusing reserved words by name (R50, R52, R56), and after it the
encoder, written from the same tables. The word format is the spec's own transport (D1); a command word is one number, so
there is no byte order in it. -/

namespace Sys2Proof

/-- OP, bits 71:64 (R50). -/
def opField (w : CommandWord) : Byte := w.extractLsb' 64 8

/-- A, bits 63:32 (R50). -/
def aField (w : CommandWord) : Operand := w.extractLsb' 32 32

/-- B, bits 31:0 (R50). -/
def bField (w : CommandWord) : Operand := w.extractLsb' 0 32

/-- The value of shape S: B[7:0] (R51). -/
def bValue (w : CommandWord) : Byte := w.extractLsb' 0 8

/-- The part of B that shape S leaves unused: B[31:8] (R50). -/
def bUnused (w : CommandWord) : BitVec 24 := w.extractLsb' 8 24

/-- Shape N: A and B must be 0 (R50). -/
def shapeN (w : CommandWord) (i : Instr) : Except Reserved Instr :=
  if aField w ≠ 0#32 then .error .operandA
  else if bField w ≠ 0#32 then .error .operandB
  else .ok i

/-- Shape AB: two 32-bit numbers (R50). -/
def shapeAB (w : CommandWord) (mk : Operand → Operand → Instr) : Except Reserved Instr :=
  .ok (mk (aField w) (bField w))

/-- Shape S: A and B[31:8] must be 0, the value is B[7:0] (R50). -/
def shapeS (w : CommandWord) (mk : Byte → Instr) : Except Reserved Instr :=
  if aField w ≠ 0#32 then .error .operandA
  else if bUnused w ≠ 0#24 then .error .operandB
  else .ok (mk (bValue w))

/-- The opcode map and the shape of each command (R52). -/
def decodeShape (w : CommandWord) : Except Reserved Instr :=
  if opField w = 0x01 then shapeN w .extract
  else if opField w = 0x02 then shapeN w .takeover
  else if opField w = 0x10 then shapeAB w .setcb
  else if opField w = 0x11 then shapeS w .setsb
  else if opField w = 0x12 then shapeS w .setcs
  else if opField w = 0x13 then shapeS w .setmd
  else if opField w = 0x1F then shapeN w .commit
  else if opField w = 0x20 then shapeS w .txb
  else .error .opcode

/-- The command a word stands for, or the reason it is reserved (R52, R56). -/
def decode (w : CommandWord) : Except Reserved Instr :=
  match decodeShape w with
  | .error why => .error why
  | .ok i =>
    match i.reserved with
    | some why => .error why
    | none => .ok i

/-- `OP:AAAAAAAA:BBBBBBBB` as one number (R50). -/
def packWord (op : Byte) (a b : Operand) : CommandWord := op ++ a ++ b

/-- The opcode of a command (R52). -/
def opcode : Instr → Byte
  | .extract   => 0x01
  | .takeover  => 0x02
  | .setcb _ _ => 0x10
  | .setsb _   => 0x11
  | .setcs _   => 0x12
  | .setmd _   => 0x13
  | .commit    => 0x1F
  | .txb _     => 0x20

/-- The first operand word (R50, R51). -/
def operandA : Instr → Operand
  | .setcb clockHz _ => clockHz
  | .extract | .takeover | .setsb _ | .setcs _ | .setmd _ | .commit | .txb _ => 0

/-- The second operand word (R50, R51); the value of shape S stands in B[7:0]. -/
def operandB : Instr → Operand
  | .setcb _ baud => baud
  | .setsb v | .setcs v | .setmd v | .txb v => v.setWidth 32
  | .extract | .takeover | .commit => 0

/-- The word of a command (R50, R52). -/
def encode (i : Instr) : CommandWord := packWord (opcode i) (operandA i) (operandB i)

/-- The pseudo-command TXS: its words are those of one TXB per byte, in order; none for the empty sequence (R59). -/
def txsWords (bytes : List Byte) : List CommandWord := bytes.map fun b => encode (.txb b)

/-- The command the decoder reads from a row of spec/opcode_table.json whose `nbits` bits are `w` (bit 0 the least
significant); none where the word is reserved or does not fit the 72-bit format (R50, R60). -/
def decodeTableWord (nbits w : Nat) : Option Instr :=
  if w % 2 ^ nbits < 2 ^ 72 then
    match decode (BitVec.ofNat 72 (w % 2 ^ nbits)) with
    | .ok i => some i
    | .error _ => none
  else none

end Sys2Proof
end

