-- ==== Sys2Proof/Machine/State.lean ====
section
/-! DEFINITION. The state of UTXC as plain data, its reset value (R27), and the reasons a step can stop. -/

namespace Sys2Proof.Machine

/-- PHASE, the lifecycle state (R20). -/
inductive Phase where
  | unconfigured
  | initialized
deriving DecidableEq, Repr

/-- CAUSE, the recorded cause of a fatal halt (R21). -/
inductive Cause where
  | doubleExtraction
  | misuse
deriving DecidableEq, Repr

/-- The response of a command that completes (R57). -/
inductive Response where
  | ok
  | incompatibleSettings
deriving DecidableEq, Repr

/-- SEQ, the sequencing state that takes the place of a program counter (R22). -/
inductive Seq where
  /-- no command in progress -/
  | idle
  /-- COMMIT in progress, k register writes already made -/
  | commit (k : Fin 4)
  /-- TXB of byte b in progress, the next micro-step is a read of STATUS -/
  | txPoll (b : Byte)
  /-- TXB of byte b, the last poll found ready, the next micro-step is the write of DATA -/
  | txWrite (b : Byte)
deriving DecidableEq, Repr

/-- A register-bus event (R24 (a)). -/
inductive BusEvent where
  /-- `RD(addr, v)`: a read at addr that returned v -/
  | rd (addr v : Byte)
  /-- `WR(addr, v)`: a write of v at addr -/
  | wr (addr v : Byte)
deriving DecidableEq, Repr

/-- The register space (R26): address and byte, addresses strictly rising. An address that is not listed holds no value
(R42), so no entry can be superfluous. -/
abbrev Memory := List Host.Cell

/-- The configuration, five fields (R10). -/
structure Cfg where
  /-- CFG.CLK: stored by SETCB and used by no command -/
  clk  : Operand
  /-- CFG.DIV, 0..4095 (R11) -/
  div  : Divisor
  /-- CFG.STOP, from {0, 8} (R12) -/
  stop : Byte
  /-- CFG.CHSZ, from {0, 2, 4, 6} (R12) -/
  chsz : Byte
  /-- CFG.MODE, from {0, 8, 16, 24} (R12) -/
  mode : Byte
deriving DecidableEq, Repr

/-- What the outside will do: "the command the host presents; the value the peripheral returns for each STATUS read" are
"not state, but parameters of the step relation" (R29), and so is the reset input (R3 (d)). The MODEL's own fields; a
statement about every state holds for every behaviour of the outside. DESIGN CHOICE, logs 1, 2 and 10. -/
structure Inputs where
  /-- the command words the host has yet to present, the next one first -/
  cmds   : List CommandWord
  /-- the peripheral's next answers to STATUS reads, the next one first; after the last one come free values -/
  status : List Byte
  /-- how many of the free values `Config.statusDraw` have been used -/
  drawn  : Nat
  /-- the level of the reset input at each coming step; not asserted after the last one listed -/
  reset  : List Bool
deriving DecidableEq, Repr

/-- Nothing presented, nothing listed. -/
def Inputs.none : Inputs where
  cmds := []
  status := []
  drawn := 0
  reset := []

/-- The state of the block (10_state.md), its parameters and its inputs. -/
structure State where
  /-- the parameters of the block (R6); no step changes them (R29) -/
  hw    : Params
  /-- TAKEN, the ownership latch (R19) -/
  taken : Bool
  /-- PHASE, the lifecycle state (R20) -/
  phase : Phase
  /-- HALT and CAUSE, the fatal latch (R21): `none` is HALT = 0, `some c` is HALT = 1 with CAUSE = c. DEDUCED, log 6. -/
  halt  : Option Cause
  /-- SEQ, the sequencer (R22) -/
  seq   : Seq
  /-- CFG, the configuration (R10) -/
  cfg   : Cfg
  /-- the register space: RF[r] stands at the address of r (R13, R26, R42) -/
  mem   : Memory
  /-- BUS, every register-bus event since reset, oldest first (R24 (a)) -/
  bus   : List BusEvent
  /-- TX, every byte written to DATA since reset, oldest first (R24 (b)) -/
  tx    : List Byte
  /-- the responses given since reset, oldest first (R57). The MODEL's own history. DESIGN CHOICE, log 11. -/
  rsp   : List Response
  /-- what the outside will do -/
  inp   : Inputs
deriving DecidableEq, Repr

/-- No step of this hardware faults: "There is no bus error, no access fault, no timeout, no retry" (R32), "No register
access raises anything" and "There is no address fault, no alignment fault, no arithmetic exception" (R80). The two fatal
errors are states the machine reaches (HALT, R86), not stops of the model. The type has no constructor. Safe: nothing that
the hardware stops on is missing here, since the spec names no such stop. DEDUCED, log 16. -/
inductive Fault where
deriving DecidableEq, Repr

/-- Why a step gives a command no meaning. -/
inductive Refusal where
  /-- An arm of `exec` whose instruction has no meaning yet. No arm raises it. Safe. -/
  | notModelled (mnemonic : String)
  /-- The command word is reserved: "a model refuses it (gives it no meaning, takes no step, changes no state)" (R56).
  Raised by the step that would accept the word, and by a meaning given operands that no legal word has. Safe (D16). -/
  | reservedWord (why : Reserved)
  /-- TAKEOVER: "the block refuses it in every state" (R62). Raised by the meaning of TAKEOVER. Safe (D15). -/
  | takeover
deriving DecidableEq, Repr

/-- The reset state of a block with parameters `hw` under the inputs `inp` (R27). -/
def State.resetWith (hw : Params) (inp : Inputs) : State where
  hw := hw
  taken := false
  phase := .unconfigured
  halt := none
  seq := .idle
  cfg :=
    { clk := Config.resetClk
      div := Config.resetDiv
      stop := hw.resetStop
      chsz := hw.resetChsz
      mode := hw.resetMode }
  mem := []
  bus := []
  tx := []
  rsp := []
  inp := inp

/-- The machine right after reset (R27): any block that R6 admits, with no command presented. -/
def State.reset : State := State.resetWith Config.params Inputs.none

end Sys2Proof.Machine
end

