-- ==== Sys2Proof/Machine/Flags.lean ====
section
/-! DEFINITION. The conditions the block tests (R23): the ready bit of a STATUS value, and TAKEN, PHASE, HALT and SEQ at the
acceptance of a command (R85, R88). -/

namespace Sys2Proof.Machine

/-- The ready predicate on a STATUS value (R75): the mask test, or the original's threshold test, an unsigned comparison. -/
def ready (hw : Params) (v : Byte) : Bool :=
  match hw.readyTest with
  | .mask => (v &&& hw.readyBit) != 0
  | .threshold => decide (hw.readyBit ≤ v)

/-- HALT = 1 (R21). -/
def State.halted (s : State) : Bool := s.halt.isSome

/-- "A command is accepted only when SEQ = Idle and HALT = 0" (R22, R85 item 1). -/
def State.accepts (s : State) : Bool := !s.halted && s.seq == .idle

/-- The lifecycle state that admits the setters and COMMIT: TAKEN = 1, Unconfigured (R88). -/
def State.configurable (s : State) : Bool := s.taken && s.phase == .unconfigured

/-- The lifecycle state that admits TXB: TAKEN = 1, Initialized (R88). -/
def State.transmittable (s : State) : Bool := s.taken && s.phase == .initialized

/-- The code of a response (R57). -/
def Response.code : Response → Byte
  | .ok => 0x00
  | .incompatibleSettings => 0x01

/-- The code of a fatal cause (R57, R80). -/
def Cause.code : Cause → Byte
  | .doubleExtraction => 0x02
  | .misuse => 0x03

end Sys2Proof.Machine
end

