-- ==== Sys2Proof/Machine/Memory.lean ====
section
/-! DEFINITION. The register space as a canonical list of (address, byte) (R26, R42). -/

namespace Sys2Proof.Machine

/-- The value an address holds, none if nothing was written there since reset (R42). -/
def Memory.read : Memory → Nat → Option Byte
  | [], _ => none
  | (b, w) :: rest, a => if b = a then some w else Memory.read rest a

/-- Write one byte, keeping the addresses strictly rising (R44: a write replaces all eight bits). -/
def Memory.write : Memory → Nat → Byte → Memory
  | [], a, v => [(a, v)]
  | (b, w) :: rest, a, v =>
    if a < b then (a, v) :: (b, w) :: rest
    else if a = b then (a, v) :: rest
    else (b, w) :: Memory.write rest a v

/-- The canonical form: addresses strictly rising, each an 8-bit address (R26). An unlisted address holds no value, so every
entry says something and equal register spaces are equal lists. -/
def Memory.wf (m : Memory) : Bool :=
  decide ((m.map Prod.fst).Pairwise (· < ·)) && m.all fun cell => decide (cell.1 < 256)

end Sys2Proof.Machine
end

