-- ==== Sys2Proof/Machine/Operands.lean ====
section
/-! DEFINITION. What commands compute from their operands and from CFG: the divisor calculator (R65, R66) and the values and
registers of COMMIT's four writes (R35, R71, R72). -/

namespace Sys2Proof.Machine

/-- The divisor calculator, all of it in the natural numbers (R65, R66, R105): the underflow guard, the floor division, the
range check. None is IncompatibleSettings. `baud` is not 0 (R56 (d)). -/
def divisor (clockHz baud : Operand) : Option Divisor :=
  let m := 16 * baud.toNat
  if m > clockHz.toNat then none
  else
    let d := clockHz.toNat / m - 1
    if d > Config.divMax then none else some (BitVec.ofNat 12 d)

/-- CFG.DIV[7:0], what COMMIT writes to BAUDL (R35, R72). -/
def divLow (d : Divisor) : Byte := d.extractLsb' 0 8

/-- zext_8(CFG.DIV[11:8]), what COMMIT writes to BAUDH (R35, R72). -/
def divHigh (d : Divisor) : Byte := (d.extractLsb' 8 4).setWidth 8

/-- CFG.STOP | CFG.CHSZ, what COMMIT writes to FRAME (R71, R72, C2). -/
def frameByte (c : Cfg) : Byte := c.stop ||| c.chsz

/-- The register of COMMIT's (k+1)-th write (R71). -/
def commitReg : Fin 4 → Reg
  | 0 => .baudl
  | 1 => .baudh
  | 2 => .frame
  | 3 => .modereg

/-- The value of COMMIT's (k+1)-th write (R71, R72). -/
def commitValue (c : Cfg) : Fin 4 → Byte
  | 0 => divLow c.div
  | 1 => divHigh c.div
  | 2 => frameByte c
  | 3 => c.mode

end Sys2Proof.Machine
end

