-- ==== Sys2Proof/Machine/Ops.lean ====
section
/-! DEFINITION. The shared operations: field updates, the two register-access primitives (R30, R31), the response, the fatal
halt (R86) and reset, the only way out of it (R95), and the order of the checks on one command (R85). -/

namespace Sys2Proof.Machine

namespace State

/-- `TAKEN <- v` (R19). -/
def setTaken (s : State) (v : Bool) : State := { s with taken := v }

/-- `PHASE <- p` (R20). -/
def setPhase (s : State) (p : Phase) : State := { s with phase := p }

/-- `HALT` and `CAUSE` (R21). -/
def setHalt (s : State) (h : Option Cause) : State := { s with halt := h }

/-- `SEQ <- q` (R22). -/
def setSeq (s : State) (q : Seq) : State := { s with seq := q }

/-- `CFG <- c` (R10). -/
def setCfg (s : State) (c : Cfg) : State := { s with cfg := c }

/-- Append an event to BUS (R24 (a)). -/
def logBus (s : State) (e : BusEvent) : State := { s with bus := s.bus ++ [e] }

/-- `respond r`: return the response to the host (R7, R57). -/
def respond (s : State) (r : Response) : State := { s with rsp := s.rsp ++ [r] }

/-- Replace what the outside will do. -/
def setInp (s : State) (i : Inputs) : State := { s with inp := i }

/-- RF[r]: the value register r holds, if any (R7, R42). -/
def rf (s : State) (r : Reg) : Option Byte := s.mem.read (s.hw.addr r).toNat

/-- The peripheral's next answer (R41: a `draw`): the one the inputs list, else a free value. -/
def nextDraw (s : State) : Byte :=
  match s.inp.status with
  | v :: _ => v
  | [] => Config.statusDraw s.inp.drawn

/-- Use up the peripheral's next answer. -/
def dropDraw (s : State) : State :=
  match s.inp.status with
  | _ :: rest => s.setInp { s.inp with status := rest }
  | [] => s.setInp { s.inp with drawn := s.inp.drawn + 1 }

/-- Whether reading register r asks the peripheral: always for STATUS (R41), and for a register that holds no value, whose
read "has no defined result" (R42) and cannot fail (R32). log 7. -/
def readsDraw (s : State) (r : Reg) : Bool :=
  s.hw.addr r == s.hw.addr .status || (s.rf r).isNone

/-- The value a read of register r returns (R30, R41, R42). -/
def readValue (s : State) (r : Reg) : Byte :=
  if s.readsDraw r then s.nextDraw else (s.rf r).getD s.nextDraw

/-- `MemRead(addr, 1)` at the address of r: one bus event; the value is `readValue` (R30). No side effect on the block (R41). -/
def memRead (s : State) (r : Reg) : State :=
  (if s.readsDraw r then s.dropDraw else s).logBus (.rd (s.hw.addr r) (s.readValue r))

/-- `MemWrite(addr, 1, v)` at the address of r: `RF[r] <- v`, one bus event, and `emit TX(v)` if the address is ADDR_DATA
(R31). It cannot fail (R32). -/
def memWrite (s : State) (r : Reg) (v : Byte) : State :=
  { s with
    mem := s.mem.write (s.hw.addr r).toNat v
    bus := s.bus ++ [.wr (s.hw.addr r) v]
    tx := if s.hw.addr r = s.hw.addr .data then s.tx ++ [v] else s.tx }

/-- Fatal halt, the block's only exception entry: `HALT <- 1`, `CAUSE <- c`, `SEQ <- Idle`, no response, and nothing else
changes (R86). -/
def raiseFatal (s : State) (c : Cause) : State := (s.setHalt (some c)).setSeq .idle

/-- Reset, the only way out of a fatal halt: every piece of the block's state takes its reset value (R87, R95). The
parameters are fixed for the life of the block (R37), and what the outside will do is not the block's state (R29). -/
def hardReset (s : State) : State := resetWith s.hw s.inp

/-- The reset input at this step (R3 (d)). -/
def resetAsserted (s : State) : Bool := s.inp.reset.headD false

/-- The state after this step's sample of the reset input is taken. -/
def sampled (s : State) : State := s.setInp { s.inp with reset := s.inp.reset.tail }

/-- The state after the next command word is taken from the command port (R22). -/
def taking (s : State) : State := s.setInp { s.inp with cmds := s.inp.cmds.tail }

end State

/-- One command, in the order of R85: not accepted (no effect, no response); reserved operands (refused); not admitted
(`fatal`); else the command's own effect. -/
def runCommand (reserved : Option Reserved) (admitted : Bool) (fatal : Cause) (effect : State → State) (s : State) :
    Host.Outcome State Fault Refusal :=
  if s.accepts then
    match reserved with
    | some why => .refused (.reservedWord why)
    | none => .next (if admitted then effect s else s.raiseFatal fatal)
  else .next s

end Sys2Proof.Machine
end

