-- ==== Sys2Proof/Machine/Configuration.lean ====
section
/-! DEFINITION. The configuration commands SETCB, SETSB, SETCS, SETMD and COMMIT (41_configuration.md). Each is admitted only
in TAKEN = 1, Unconfigured, and raises Misuse elsewhere (R83, R88). -/

namespace Sys2Proof.Machine

/-- The effect of SETCB where it is admitted: store clock and divisor together, or answer IncompatibleSettings and store
nothing (R65, R81). -/
def setcbEffect (clockHz baud : Operand) (s : State) : State :=
  match divisor clockHz baud with
  | some d => (s.setCfg { s.cfg with clk := clockHz, div := d }).respond .ok
  | none => s.respond .incompatibleSettings

/-- SETCB clock_hz, baud (R65). -/
def execSetcb (clockHz baud : Operand) (s : State) : Host.Outcome State Fault Refusal :=
  runCommand (Instr.reserved (.setcb clockHz baud)) s.configurable .misuse (setcbEffect clockHz baud) s

/-- SETSB value: `CFG.STOP <- value` (R67). -/
def execSetsb (v : Byte) (s : State) : Host.Outcome State Fault Refusal :=
  runCommand (Instr.reserved (.setsb v)) s.configurable .misuse
    (fun s => (s.setCfg { s.cfg with stop := v }).respond .ok) s

/-- SETCS value: `CFG.CHSZ <- value` (R68). -/
def execSetcs (v : Byte) (s : State) : Host.Outcome State Fault Refusal :=
  runCommand (Instr.reserved (.setcs v)) s.configurable .misuse
    (fun s => (s.setCfg { s.cfg with chsz := v }).respond .ok) s

/-- SETMD value: `CFG.MODE <- value` (R69). -/
def execSetmd (v : Byte) (s : State) : Host.Outcome State Fault Refusal :=
  runCommand (Instr.reserved (.setmd v)) s.configurable .misuse
    (fun s => (s.setCfg { s.cfg with mode := v }).respond .ok) s

/-- COMMIT: accepted here; its four register writes are the four micro-steps that follow (R22, R71). log 8. -/
def execCommit (s : State) : Host.Outcome State Fault Refusal :=
  runCommand (Instr.reserved .commit) s.configurable .misuse (fun s => s.setSeq (.commit 0)) s

/-- Micro-step k+1 of COMMIT: one register write; the phase change and the response belong to the fourth (R71). -/
def commitStep (k : Fin 4) (s : State) : State :=
  let t := s.memWrite (commitReg k) (commitValue s.cfg k)
  if k = 3 then ((t.setPhase .initialized).setSeq .idle).respond .ok
  else t.setSeq (.commit (k + 1))

end Sys2Proof.Machine
end

