-- ==== Sys2Proof/Machine/Ownership.lean ====
section
/-! DEFINITION. The ownership commands EXTRACT and TAKEOVER (40_ownership.md). -/

namespace Sys2Proof.Machine

/-- EXTRACT: test of TAKEN and its setting in one step; a second extraction is fatal in either phase (R61, R82). -/
def execExtract (s : State) : Host.Outcome State Fault Refusal :=
  runCommand (Instr.reserved .extract) (!s.taken) .doubleExtraction (fun s => (s.setTaken true).respond .ok) s

/-- TAKEOVER: "the block refuses it in every state: no state change, no register access, no response, no fatal halt" (R62). -/
def execTakeover (_ : State) : Host.Outcome State Fault Refusal :=
  .refused .takeover

end Sys2Proof.Machine
end

