-- ==== Sys2Proof/Machine/Transmit.lean ====
section
/-! DEFINITION. The transmit command TXB (42_transmit.md). It is admitted only in TAKEN = 1, Initialized, whatever CFG.MODE
is (R88, R103), and raises Misuse elsewhere. TXS is its expansion, in the host (R59, R77): `txsWords`. -/

namespace Sys2Proof.Machine

/-- TXB byte: accepted here; the polls and the write of DATA are the micro-steps that follow (R22, R76). log 8. -/
def execTxb (b : Byte) (s : State) : Host.Outcome State Fault Refusal :=
  runCommand (Instr.reserved (.txb b)) s.transmittable .misuse (fun s => s.setSeq (.txPoll b)) s

/-- One poll: one read of STATUS, then the ready test on the value read (R75, R76). -/
def txPollStep (b : Byte) (s : State) : State :=
  (s.memRead .status).setSeq (if ready s.hw (s.readValue .status) then .txWrite b else .txPoll b)

/-- The write of DATA after a successful poll, with the response; the byte unchanged (R76). -/
def txWriteStep (b : Byte) (s : State) : State :=
  ((s.memWrite .data b).setSeq .idle).respond .ok

end Sys2Proof.Machine
end

