-- ==== Sys2Proof/Machine/Dispatch.lean ====
section
/-! DEFINITION. What happens when the host presents a command: one arm per command of R52, each its own meaning. -/

namespace Sys2Proof.Machine

def exec (i : Instr) (s : State) : Host.Outcome State Fault Refusal :=
  match i with
  | .extract => Sys2Proof.Machine.execExtract s
  | .takeover => Sys2Proof.Machine.execTakeover s
  | .setcb clockHz baud => Sys2Proof.Machine.execSetcb clockHz baud s
  | .setsb v => Sys2Proof.Machine.execSetsb v s
  | .setcs v => Sys2Proof.Machine.execSetcs v s
  | .setmd v => Sys2Proof.Machine.execSetmd v s
  | .commit => Sys2Proof.Machine.execCommit s
  | .txb b => Sys2Proof.Machine.execTxb b s

end Sys2Proof.Machine
end

