-- ==== Sys2Proof/Machine/Sequencer.lean ====
section
/-! DEFINITION. The sequencer: what one micro-step of the controller does (R2 (b), R22, R79). -/

namespace Sys2Proof.Machine

/-- The next micro-step of the command in progress (R22, R71, R76). With SEQ = Idle there is none. -/
def advance (s : State) : State :=
  match s.seq with
  | .idle => s
  | .commit k => commitStep k s
  | .txPoll b => txPollStep b s
  | .txWrite b => txWriteStep b s

/-- The command port, looked at with SEQ = Idle and HALT = 0 (R22): with no word presented the block waits; a reserved word
is refused (R56); any other word is taken and its command runs. -/
def acceptCommand (s : State) : Host.Outcome State Fault Refusal :=
  match s.inp.cmds with
  | [] => .next s
  | w :: _ =>
    match decode w with
    | .ok i => exec i s.taking
    | .error why => .refused (.reservedWord why)

/-- One micro-step of the controller, the reset input not asserted. In a fatal halt nothing happens: "the block accepts no
command and makes no register access" (R86). -/
def microStep (s : State) : Host.Outcome State Fault Refusal :=
  if s.halted then .next s
  else if s.seq = .idle then acceptCommand s
  else .next (advance s)

/-- The reset input is sampled first and "overrides everything" (R85, R95). -/
def stepWithReset (s : State) : Host.Outcome State Fault Refusal :=
  if s.resetAsserted then .next s.sampled.hardReset else microStep s.sampled

end Sys2Proof.Machine
end

