-- ==== Sys2Proof/Machine/Step.lean ====
section
/-! DEFINITION. One step of the machine, and how a command word is put where the next step takes it. -/

namespace Sys2Proof.Machine

/-- One step: a reset, or one micro-step of the controller (R2, R22, R95). -/
def step (s : State) : Host.Outcome State Fault Refusal := stepWithReset s

/-- `s` with the `nbits`-bit word `w` as the next command word at the command port, in front of the host's other words, and
with what its acceptance needs (R22): SEQ = Idle, HALT = 0, the reset input not asserted at the next step. Where that already
holds, as at `State.reset`, nothing but the port changes. log 17. -/
def State.withFetchWord (s : State) (nbits w : Nat) : State :=
  { s with
    halt := none
    seq := .idle
    inp :=
      { s.inp with
        cmds := BitVec.ofNat 72 (w % 2 ^ nbits) :: s.inp.cmds
        reset := if s.resetAsserted then false :: s.inp.reset.tail else s.inp.reset } }

end Sys2Proof.Machine
end

