-- ==== Sys2Proof/Safety.lean ====
section
/-! DEFINITION. The terms in which statements speak of runs of UTXC: several steps, the peripheral's coming answers, the
legal words and the lifecycle table written out from the spec, what the histories may look like, and the invariants. -/

namespace Sys2Proof.Machine

/-- n steps, stopping at the first refusal. -/
def steps : Nat → State → Host.Outcome State Fault Refusal
  | 0, s => .next s
  | n + 1, s =>
    match step s with
    | .next t => steps n t
    | .fault r => .fault r
    | .refused r => .refused r

/-- The reset input stays unasserted. -/
def State.noReset (s : State) : Bool := s.inp.reset.all (! ·)

/-- A completed run: no command in progress or to come, and no fatal halt; "the halted state is never a completed run" (R86). -/
def State.completed (s : State) : Bool := s.accepts && s.inp.cmds.isEmpty

/-- The value the (n+1)-th coming read of STATUS will return (R41). -/
def State.drawAt (s : State) (n : Nat) : Byte :=
  match s.inp.status[n]? with
  | some v => v
  | none => Config.statusDraw (s.inp.drawn + (n - s.inp.status.length))

/-- The named premise of R78, n times over: among the coming answers of the peripheral at least n are ready. With n = 1 it is
`PeripheralEventuallyReady`. Never a property of the block. -/
def PeripheralReadyTimes (n : Nat) (s : State) : Prop :=
  ∃ m, n ≤ ((List.range m).map s.drawAt).countP (ready s.hw)

/-- The legal words of R52, written out from its table of exact patterns. -/
def LegalWord (w : CommandWord) : Prop :=
  w = 0x010000000000000000                                      -- EXTRACT
  ∨ w = 0x020000000000000000                                    -- TAKEOVER
  ∨ (w.toNat / 2 ^ 64 = 0x10 ∧ w.toNat % 2 ^ 32 ≠ 0)            -- SETCB, B not 0
  ∨ w = 0x110000000000000000 ∨ w = 0x110000000000000008         -- SETSB
  ∨ w = 0x120000000000000000 ∨ w = 0x120000000000000002         -- SETCS
  ∨ w = 0x120000000000000004 ∨ w = 0x120000000000000006
  ∨ w = 0x130000000000000000 ∨ w = 0x130000000000000008         -- SETMD
  ∨ w = 0x130000000000000010 ∨ w = 0x130000000000000018
  ∨ w = 0x1F0000000000000000                                    -- COMMIT
  ∨ (0x200000000000000000 ≤ w.toNat ∧ w.toNat ≤ 0x2000000000000000FF)  -- TXB

/-- A cell of the table of R88. -/
inductive Verdict where
  | ok
  | doubleExtraction
  | misuse
  | refused
deriving DecidableEq, Repr

/-- The table of R88 for an accepted command, by its three columns: TAKEN = 0; TAKEN = 1, Unconfigured; TAKEN = 1,
Initialized. -/
def lifecycleTable : Instr → Bool → Phase → Verdict
  | .extract, false, _ => .ok
  | .extract, true, _ => .doubleExtraction
  | .setcb _ _, true, .unconfigured | .setsb _, true, .unconfigured
  | .setcs _, true, .unconfigured | .setmd _, true, .unconfigured => .ok
  | .setcb _ _, _, _ | .setsb _, _, _ | .setcs _, _, _ | .setmd _, _, _ => .misuse
  | .commit, true, .unconfigured => .ok
  | .commit, _, _ => .misuse
  | .txb _, true, .initialized => .ok
  | .txb _, _, _ => .misuse
  | .takeover, _, _ => .refused

/-- Which kind of setter a command is, if it is one (R70). -/
def setterKind : Instr → Option (Fin 4)
  | .setcb _ _ => some 0
  | .setsb _ => some 1
  | .setcs _ => some 2
  | .setmd _ => some 3
  | .extract | .takeover | .commit | .txb _ => none

/-- The byte an event puts out: v of `WR(ADDR_DATA, v)` (R24 (b)). -/
def BusEvent.output (hw : Params) : BusEvent → Option Byte
  | .wr a v => if a = hw.addr .data then some v else none
  | .rd _ _ => none

/-- The sub-list of BUS that TX keeps: the values of the events `WR(ADDR_DATA, v)` (R24 (b)). -/
def dataWrites (hw : Params) (bus : List BusEvent) : List Byte := bus.filterMap (BusEvent.output hw)

/-- What an address holds after one more event (R42). -/
def BusEvent.store (a : Byte) (held : Option Byte) : BusEvent → Option Byte
  | .wr b v => if b = a then some v else held
  | .rd _ _ => held

/-- The value of the last write to an address in a history (R42). -/
def lastWrite (a : Byte) (bus : List BusEvent) : Option Byte := bus.foldl (BusEvent.store a) none

/-- The four events of COMMIT, in order (R71). -/
def commitEvents (hw : Params) (c : Cfg) : List BusEvent :=
  [.wr (hw.addr .baudl) (divLow c.div), .wr (hw.addr .baudh) (divHigh c.div),
    .wr (hw.addr .frame) (c.stop ||| c.chsz), .wr (hw.addr .modereg) c.mode]

/-- The bus events of a byte sequence sent by TXS: for each byte in order some polls that find not ready, one that finds
ready, and the write of that byte (R76, R77). -/
def TxsEvents (hw : Params) : List Byte → List BusEvent → Prop
  | [], events => events = []
  | b :: bs, events =>
    ∃ (polls : List Byte) (v : Byte) (rest : List BusEvent),
      (∀ p ∈ polls, ready hw p = false) ∧ ready hw v = true ∧
      events = polls.map (BusEvent.rd (hw.addr .status)) ++ [.rd (hw.addr .status) v, .wr (hw.addr .data) b] ++ rest ∧
      TxsEvents hw bs rest

/-- How far a transmission history has come after the four writes of COMMIT (R39 (c), R76). -/
inductive TxPlace where
  | between  -- no TXB under way, or one that has not polled yet
  | polling  -- the last poll found not ready
  | polled   -- the last poll found ready, DATA not yet written
deriving DecidableEq, Repr

/-- The one event each place allows: a read of STATUS, or after a ready poll the write of DATA (R39 (c), R76). -/
def TxPlace.after (hw : Params) : TxPlace → BusEvent → Option TxPlace
  | .between, .rd a v | .polling, .rd a v =>
    if a = hw.addr .status then some (if ready hw v then .polled else .polling) else none
  | .polled, .wr a _ => if a = hw.addr .data then some .between else none
  | .between, .wr _ _ | .polling, .wr _ _ | .polled, .rd _ _ => none

/-- The place a whole transmission history leads to, if its accesses come in an order R76 allows. -/
def txPlace (hw : Params) (events : List BusEvent) : Option TxPlace :=
  events.foldlM (TxPlace.after hw) .between

/-- The structural invariant: the parameters are ones R6 admits; the register space is canonical and holds only the five
registers the controller writes, so RF[STATUS] holds no value (R26, R38, R42); the selectors lie in their domains (R12);
Initialized only with TAKEN = 1 (R88); a command in progress only where it is admitted and not in a fatal halt (R22, R86,
R88); TX is the DATA writes of BUS (R24 (b)). -/
structure Inv (s : State) : Prop where
  params : s.hw.wf = true
  memory : s.mem.wf = true
  populated : ∀ a v, s.mem.read a = some v → ∃ r, r ≠ Reg.status ∧ a = (s.hw.addr r).toNat
  stop : legalStop s.cfg.stop = true
  chsz : legalChsz s.cfg.chsz = true
  mode : legalMode s.cfg.mode = true
  owner : s.phase = .initialized → s.taken = true
  commit : ∀ k, s.seq = .commit k → s.halt = none ∧ s.taken = true ∧ s.phase = .unconfigured
  poll : ∀ b, s.seq = .txPoll b → s.halt = none ∧ s.taken = true ∧ s.phase = .initialized
  write : ∀ b, s.seq = .txWrite b → s.halt = none ∧ s.taken = true ∧ s.phase = .initialized
  output : s.tx = dataWrites s.hw s.bus

/-- The history invariant. RF[r] is the last write to r (R42). Before COMMIT there is no access; inside it exactly its first
k writes; after it exactly its four writes, of the configuration as it still stands, and then accesses in the order R76
allows, as far along as SEQ says (R39, R71). -/
structure HistoryInv (s : State) : Prop where
  storage : ∀ r, s.rf r = lastWrite (s.hw.addr r) s.bus
  before : s.phase = .unconfigured → s.seq = .idle → s.bus = []
  during : ∀ k, s.seq = .commit k → s.bus = (commitEvents s.hw s.cfg).take k
  after : s.phase = .initialized → ∃ events p, s.bus = commitEvents s.hw s.cfg ++ events ∧
    txPlace s.hw events = some p ∧
    (s.seq = .idle → p = .between) ∧
    (∀ b, s.seq = .txPoll b → p ≠ .polled) ∧
    (∀ b, s.seq = .txWrite b → p = .polled)

end Sys2Proof.Machine
end

