-- ==== Sys2Proof/Certificates/Slice0/Obligations.lean ====
section
/-! DEFINITION. The statements about UTXC, from the numbered rules of spec/. Hypotheses `s.halt = none` and `s.seq = .idle`
say that the block accepts a command (R22, R85 item 1); `s.resetAsserted = false` that the reset input is not asserted at the
step. Equalities of whole states say the frame too: what stands in no update is unchanged. Where a command in progress leaves
`inp.cmds` as it is, that is the model's choice of log 9, not a rule of the spec. -/

open Sys2Proof Sys2Proof.Machine

/-! ### Encoding -/

/-- Words written out from the table of R52 and the vectors of 95_test_vectors.md 2.1. -/
def Obligations.WrittenWordsDecode : Prop :=
  decode 0x010000000000000000 = .ok .extract ∧
  decode 0x020000000000000000 = .ok .takeover ∧
  decode 0x1000F4240000002580 = .ok (.setcb 16000000 9600) ∧
  decode 0x110000000000000008 = .ok (.setsb 8) ∧
  decode 0x120000000000000006 = .ok (.setcs 6) ∧
  decode 0x130000000000000018 = .ok (.setmd 24) ∧
  decode 0x1F0000000000000000 = .ok .commit ∧
  decode 0x200000000000000041 = .ok (.txb 0x41)

/-- R50, R52: every well-formed command is read back from its word, with every operand. -/
def Obligations.DecodeOfEncodeIsIdentity : Prop :=
  ∀ i : Instr, i.wellFormed = true → decode (encode i) = .ok i

/-- R50, R52: every word that decodes is the word of the command it decodes to, so each command has one word. -/
def Obligations.EncodeOfDecodeIsIdentity : Prop :=
  ∀ (w : CommandWord) (i : Instr), decode w = .ok i → encode i = w ∧ i.wellFormed = true

/-- R56, the spec's own decision D16: a word that is not one of the patterns of R52 is refused by name when it is presented,
and every other word is a command's. -/
def Obligations.ReservedWordsAreRefused : Prop :=
  (∀ w : CommandWord, LegalWord w ↔ ∃ i, decode w = .ok i) ∧
  ∀ (s : State) (w : CommandWord) (rest : List CommandWord),
    s.resetAsserted = false → s.halt = none → s.seq = .idle → s.inp.cmds = w :: rest → ¬ LegalWord w →
    ∃ why, step s = .refused (.reservedWord why)

/-- The four kinds of R56, each with its name: an unknown opcode; unused operand bits not zero; a selector value outside its
domain; baud = 0. The names are the model's. -/
def Obligations.ReservedWordsByKind : Prop :=
  (∀ w, opField w ∉ [0x01, 0x02, 0x10, 0x11, 0x12, 0x13, 0x1F, 0x20] → decode w = .error .opcode) ∧
  (∀ w, opField w ∈ [0x01, 0x02, 0x1F, 0x11, 0x12, 0x13, 0x20] → aField w ≠ 0 → decode w = .error .operandA) ∧
  (∀ w, opField w ∈ [0x01, 0x02, 0x1F] → aField w = 0 → bField w ≠ 0 → decode w = .error .operandB) ∧
  (∀ w, opField w ∈ [0x11, 0x12, 0x13, 0x20] → aField w = 0 → bField w >>> 8 ≠ 0 → decode w = .error .operandB) ∧
  (∀ v : Byte, v ∉ [0, 8] → decode (encode (.setsb v)) = .error .stopValue) ∧
  (∀ v : Byte, v ∉ [0, 2, 4, 6] → decode (encode (.setcs v)) = .error .chszValue) ∧
  (∀ v : Byte, v ∉ [0, 8, 16, 24] → decode (encode (.setmd v)) = .error .modeValue) ∧
  (∀ clockHz : Operand, decode (encode (.setcb clockHz 0)) = .error .zeroBaud)

/-- R56 (c), (d) at the meanings (log 13): a setter whose operands no legal word has is refused under the same name, in every
lifecycle state, before the checks of TAKEN and PHASE (R85 item 2). Decisions D4 and D16 of the spec. -/
def Obligations.IllFormedCommandsAreRefused : Prop :=
  ∀ s : State, s.halt = none → s.seq = .idle →
    (∀ clockHz : Operand, exec (.setcb clockHz 0) s = .refused (.reservedWord .zeroBaud)) ∧
    (∀ v : Byte, v ∉ [0, 8] → exec (.setsb v) s = .refused (.reservedWord .stopValue)) ∧
    (∀ v : Byte, v ∉ [0, 2, 4, 6] → exec (.setcs v) s = .refused (.reservedWord .chszValue)) ∧
    (∀ v : Byte, v ∉ [0, 8, 16, 24] → exec (.setmd v) s = .refused (.reservedWord .modeValue))

/-! ### The step -/

/-- R22: with SEQ = Idle and HALT = 0 the word presented is taken and its command runs; the step adds the sample of the reset
input and the taking of the word (logs 1 and 10). -/
def Obligations.StepRunsPresentedCommand : Prop :=
  ∀ (s : State) (w : CommandWord) (rest : List CommandWord) (i : Instr),
    s.resetAsserted = false → s.halt = none → s.seq = .idle → s.inp.cmds = w :: rest → decode w = .ok i →
    step s = exec i { s with inp := { s.inp with cmds := rest, reset := s.inp.reset.tail } }

/-- R22, R85 item 1 (of the spec's own decisions D13 and D16): while a command is in progress none is accepted, so a command
presented to the meanings has no effect. TAKEOVER alone is refused in every state (R62). That a word not accepted stays at the
port, where a block could lose it, is the model's choice (DESIGN CHOICE, log 9). -/
def Obligations.BusyBlockAcceptsNothing : Prop :=
  (∀ (s : State) (i : Instr), s.seq ≠ .idle → i ≠ .takeover → exec i s = .next s) ∧
  ∀ s t : State, s.resetAsserted = false → s.seq ≠ .idle → step s = .next t → t.inp.cmds = s.inp.cmds

/-- With no word presented the block waits: the model's choice, log 9. -/
def Obligations.IdleBlockWaits : Prop :=
  ∀ s : State, s.resetAsserted = false → s.halt = none → s.seq = .idle → s.inp.cmds = [] →
    step s = .next { s with inp := { s.inp with reset := s.inp.reset.tail } }

/-- R2 (b), R24, R39 (a): a step that is not a reset appends at most one register-bus event, drops none, appends to TX at most
the byte of that event, and never changes the parameters (R29, R37). -/
def Obligations.OneAccessPerMicroStep : Prop :=
  ∀ s t : State, s.resetAsserted = false → step s = .next t →
    t.hw = s.hw ∧
    ((t.bus = s.bus ∧ t.tx = s.tx) ∨
      (∃ a v, t.bus = s.bus ++ [.rd a v] ∧ t.tx = s.tx) ∨
      (∃ a v, t.bus = s.bus ++ [.wr a v] ∧ t.tx = if a = s.hw.addr .data then s.tx ++ [v] else s.tx))

/-! ### Reset -/

/-- R27: the reset values the spec gives (RESET_CLK is its own decision D12, the selectors are open, D11), for every parameter set and at `State.reset`; no register holds a value; a read of
STATUS asks the peripheral; and the only command that then succeeds is EXTRACT. -/
def Obligations.ResetStateValues : Prop :=
  (∀ (hw : Params) (inp : Inputs),
    let s := State.resetWith hw inp
    s.hw = hw ∧ s.inp = inp ∧ s.taken = false ∧ s.phase = .unconfigured ∧ s.halt = none ∧ s.seq = .idle ∧
    s.cfg = { clk := 16000000, div := 103, stop := hw.resetStop, chsz := hw.resetChsz, mode := hw.resetMode } ∧
    (∀ r, s.rf r = none) ∧ s.readsDraw .status = true ∧ s.bus = [] ∧ s.tx = [] ∧
    ∀ i t, exec i s = .next t → t.halt = none → i = .extract) ∧
  (∃ hw inp, State.reset = State.resetWith hw inp ∧ hw.wf = true ∧
    hw.resetStop ∈ [0, 8] ∧ hw.resetChsz ∈ [0, 2, 4, 6] ∧ hw.resetMode ∈ [0, 8, 16, 24])

/-- R95, the spec's own decision D18: reset from any state, also in a fatal halt and inside a command, abandons the command without a response or a
register access and gives every piece of state its reset value; and without reset TAKEN is never cleared, Initialized and
HALT are never left, and a TXB that finds not ready goes on polling. That the parameters and what the outside will do stay is
the model's reading (logs 3 and 10). -/
def Obligations.ResetIsTheOnlyWayOut : Prop :=
  (∀ s : State, s.resetAsserted = true →
    step s = .next
      { hw := s.hw, taken := false, phase := .unconfigured, halt := none, seq := .idle
        cfg := { clk := 16000000, div := 103, stop := s.hw.resetStop, chsz := s.hw.resetChsz, mode := s.hw.resetMode }
        mem := [], bus := [], tx := [], rsp := [], inp := { s.inp with reset := s.inp.reset.tail } }) ∧
  ∀ s t : State, s.resetAsserted = false → step s = .next t →
    (s.taken = true → t.taken = true) ∧
    (s.phase = .initialized → t.phase = .initialized) ∧
    (∀ c, s.halt = some c → t.halt = some c) ∧
    (∀ b, s.seq = .txPoll b → ready s.hw s.nextDraw = false → t.seq = .txPoll b)

/-! ### Ownership -/

/-- R61, R82: EXTRACT with TAKEN = 0 sets TAKEN and answers OK; with TAKEN = 1, in either phase, it is the fatal halt with
CAUSE DoubleExtraction and no response; nothing else changes in either case. It is the only command that succeeds with
TAKEN = 0; no step but reset sets TAKEN back to 0; after a fatal halt it is not accepted. -/
def Obligations.ExtractSucceedsOnce : Prop :=
  (∀ s : State, s.halt = none → s.seq = .idle → s.taken = false →
    exec .extract s = .next { s with taken := true, rsp := s.rsp ++ [.ok] }) ∧
  (∀ s : State, s.halt = none → s.seq = .idle → s.taken = true →
    exec .extract s = .next { s with halt := some .doubleExtraction, seq := .idle }) ∧
  (∀ (s t : State) (i : Instr), s.halt = none → s.seq = .idle → s.taken = false → exec i s = .next t → t.halt = none →
    i = .extract) ∧
  (∀ s t : State, s.resetAsserted = false → s.taken = true → step s = .next t → t.taken = true) ∧
  (∀ s : State, s.halt.isSome = true → exec .extract s = .next s)

/-- R62, the spec's own decision D15: the word of TAKEOVER decodes, and the block refuses it in every state. In a fatal halt
the meaning refuses it too (log 14), while a step does not look at the port. -/
def Obligations.TakeoverIsRefused : Prop :=
  decode 0x020000000000000000 = .ok .takeover ∧
  (∀ s : State, exec .takeover s = .refused .takeover) ∧
  (∀ (s : State) (rest : List CommandWord), s.resetAsserted = false → s.halt = none → s.seq = .idle →
    s.inp.cmds = 0x020000000000000000 :: rest → step s = .refused .takeover)

/-! ### Configuration -/

/-- R65, R81: SETCB in TAKEN = 1, Unconfigured stores clock and divisor together and answers OK when `16*baud ≤ clock_hz` and
the divisor is at most 4095; else it answers IncompatibleSettings and changes no state. For baud = 0 see
`IllFormedCommandsAreRefused`. -/
def Obligations.SetcbStoresOrRejects : Prop :=
  ∀ (s : State) (clockHz baud : Operand), s.halt = none → s.seq = .idle → s.taken = true → s.phase = .unconfigured →
    baud ≠ 0 →
    (16 * baud.toNat ≤ clockHz.toNat ∧ clockHz.toNat / (16 * baud.toNat) - 1 ≤ 4095 →
      exec (.setcb clockHz baud) s = .next
        { s with
          cfg := { s.cfg with clk := clockHz, div := BitVec.ofNat 12 (clockHz.toNat / (16 * baud.toNat) - 1) }
          rsp := s.rsp ++ [.ok] }) ∧
    (16 * baud.toNat > clockHz.toNat ∨ clockHz.toNat / (16 * baud.toNat) - 1 > 4095 →
      exec (.setcb clockHz baud) s = .next { s with rsp := s.rsp ++ [.incompatibleSettings] })

/-- R66 (b) to (e), of which (d) is the spec's own derivation: for baud at least 1 nothing divides by zero; the calculator succeeds exactly when
`16*baud ≤ clock_hz < 65552*baud`, and the divisor it gives is the exact floor-divided one. -/
def Obligations.DivisorIsExactFloor : Prop :=
  ∀ clockHz baud : Operand, baud ≠ 0 →
    16 ≤ 16 * baud.toNat ∧
    ((divisor clockHz baud).isSome = true ↔ 16 * baud.toNat ≤ clockHz.toNat ∧ clockHz.toNat < 65552 * baud.toNat) ∧
    ∀ d, divisor clockHz baud = some d →
      1 ≤ clockHz.toNat / (16 * baud.toNat) ∧
      d.toNat = clockHz.toNat / (16 * baud.toNat) - 1 ∧
      16 * baud.toNat * (d.toNat + 1) ≤ clockHz.toNat ∧ clockHz.toNat < 16 * baud.toNat * (d.toNat + 2)

/-- R67, R68, R69: in TAKEN = 1, Unconfigured each selector setter stores its value in its own field, answers OK, and changes
nothing else. For a value outside the domain see `IllFormedCommandsAreRefused`. -/
def Obligations.SelectorSettersStore : Prop :=
  ∀ (s : State) (v : Byte), s.halt = none → s.seq = .idle → s.taken = true → s.phase = .unconfigured →
    (v ∈ [0, 8] →
      exec (.setsb v) s = .next { s with cfg := { s.cfg with stop := v }, rsp := s.rsp ++ [.ok] }) ∧
    (v ∈ [0, 2, 4, 6] →
      exec (.setcs v) s = .next { s with cfg := { s.cfg with chsz := v }, rsp := s.rsp ++ [.ok] }) ∧
    (v ∈ [0, 8, 16, 24] →
      exec (.setmd v) s = .next { s with cfg := { s.cfg with mode := v }, rsp := s.rsp ++ [.ok] })

/-- R70, its last sentence the spec's own derivation: two setters of different kinds give the same configuration in either order, a failed SETCB included; of two of the
same kind the later one stands where it succeeds. -/
def Obligations.SettersCommuteOnDisjointFields : Prop :=
  ∀ (s : State) (i j : Instr), s.halt = none → s.seq = .idle → s.taken = true → s.phase = .unconfigured →
    i.wellFormed = true → j.wellFormed = true → (setterKind i).isSome = true → (setterKind j).isSome = true →
    ∃ si sj sij sji, exec i s = .next si ∧ exec j s = .next sj ∧ exec j si = .next sij ∧ exec i sj = .next sji ∧
      (setterKind i ≠ setterKind j → { sij with rsp := [] } = { sji with rsp := [] }) ∧
      (setterKind i = setterKind j → sj.rsp = s.rsp ++ [.ok] → sij.cfg = sj.cfg)

/-- R71: COMMIT in TAKEN = 1, Unconfigured is accepted, and its four micro-steps make exactly the four writes BAUDL, BAUDH,
FRAME, MODEREG, in that order; then PHASE is Initialized and the response OK, and nothing else has changed. With TAKEN = 0 or
in Initialized it is Misuse, with no access. That acceptance is a step of its own is the model's reading (log 8). -/
def Obligations.CommitWritesConfigurationInOrder : Prop :=
  (∀ s : State, s.halt = none → s.seq = .idle → s.taken = false ∨ s.phase = .initialized →
    exec .commit s = .next { s with halt := some .misuse, seq := .idle }) ∧
  ∀ s : State, s.hw.wf = true → s.noReset = true → s.halt = none → s.seq = .idle → s.taken = true →
    s.phase = .unconfigured →
    exec .commit s = .next { s with seq := .commit 0 } ∧
    steps 4 { s with seq := .commit 0 } = .next
      { s with
        mem := (((s.mem.write (s.hw.addr .baudl).toNat (divLow s.cfg.div)).write
          (s.hw.addr .baudh).toNat (divHigh s.cfg.div)).write
          (s.hw.addr .frame).toNat (s.cfg.stop ||| s.cfg.chsz)).write (s.hw.addr .modereg).toNat s.cfg.mode
        bus := s.bus ++
          [.wr (s.hw.addr .baudl) (divLow s.cfg.div), .wr (s.hw.addr .baudh) (divHigh s.cfg.div),
            .wr (s.hw.addr .frame) (s.cfg.stop ||| s.cfg.chsz), .wr (s.hw.addr .modereg) s.cfg.mode]
        phase := .initialized
        rsp := s.rsp ++ [.ok]
        inp := { s.inp with reset := s.inp.reset.drop 4 } }

/-- R22, R71: each micro-step of COMMIT, from any state: one write, of register k's value at register k's address; every
other address reads as before; PHASE, SEQ and the response change at the fourth only; the rest is unchanged. -/
def Obligations.CommitMicroStepFrame : Prop :=
  ∀ (s : State) (k : Fin 4), s.resetAsserted = false → s.halt = none → s.seq = .commit k →
    ∃ t, step s = .next t ∧
      t.mem.read (s.hw.addr (commitReg k)).toNat = some (commitValue s.cfg k) ∧
      (∀ a, a ≠ (s.hw.addr (commitReg k)).toNat → t.mem.read a = s.mem.read a) ∧
      t.bus = s.bus ++ [.wr (s.hw.addr (commitReg k)) (commitValue s.cfg k)] ∧
      (s.hw.addr (commitReg k) ≠ s.hw.addr .data → t.tx = s.tx) ∧
      (k.val < 3 → t.seq = .commit (k + 1) ∧ t.phase = s.phase ∧ t.rsp = s.rsp) ∧
      (k = 3 → t.seq = .idle ∧ t.phase = .initialized ∧ t.rsp = s.rsp ++ [.ok]) ∧
      t.hw = s.hw ∧ t.taken = s.taken ∧ t.halt = none ∧ t.cfg = s.cfg ∧
      t.inp = { s.inp with reset := s.inp.reset.tail }

/-- R72: the values COMMIT writes, in full. -/
def Obligations.CommitValuesSplitAndCombine : Prop :=
  ∀ c : Cfg,
    ((commitValue c 0).toNat = c.div.toNat % 256 ∧ (commitValue c 1).toNat = c.div.toNat / 256 ∧
      (commitValue c 1).toNat ≤ 15 ∧ c.div.toNat = 256 * (commitValue c 1).toNat + (commitValue c 0).toNat) ∧
    (c.stop ∈ [0, 8] → c.chsz ∈ [0, 2, 4, 6] →
      c.stop &&& c.chsz = 0 ∧ commitValue c 2 = c.stop ||| c.chsz ∧ commitValue c 2 = c.stop + c.chsz ∧
      (commitValue c 2).toNat = c.stop.toNat + c.chsz.toNat) ∧
    commitValue c 3 = c.mode ∧
    (commitReg 0, commitReg 1, commitReg 2, commitReg 3) = (Reg.baudl, Reg.baudh, Reg.frame, Reg.modereg)

/-! ### Lifecycle and errors -/

/-- R83, R85, the spec's own decision D13: a setter, COMMIT or TXB presented in a lifecycle state that does not admit it is the fatal halt with CAUSE
Misuse, whatever its (legal) operands are; no configuration field, register or history changes and there is no response. -/
def Obligations.MisuseIsFatal : Prop :=
  ∀ (s : State) (i : Instr), s.halt = none → s.seq = .idle → i.wellFormed = true → i ≠ .extract → i ≠ .takeover →
    ((∃ b, i = .txb b) → ¬ (s.taken = true ∧ s.phase = .initialized)) →
    ((¬ ∃ b, i = .txb b) → ¬ (s.taken = true ∧ s.phase = .unconfigured)) →
    exec i s = .next { s with halt := some .misuse, seq := .idle }

/-- R88: the table of the lifecycle states, cell by cell, for every legal command an accepting block is presented. The state
TAKEN = 0, Initialized, which the table has no column for, is left out. -/
def Obligations.LifecycleTableHolds : Prop :=
  ∀ (s : State) (i : Instr), s.halt = none → s.seq = .idle → i.wellFormed = true →
    ¬ (s.taken = false ∧ s.phase = .initialized) →
    match lifecycleTable i s.taken s.phase with
    | .ok => ∃ t, exec i s = .next t ∧ t.halt = none
    | .doubleExtraction => exec i s = .next { s with halt := some .doubleExtraction }
    | .misuse => exec i s = .next { s with halt := some .misuse }
    | .refused => exec i s = .refused .takeover

/-- R86, the spec's own decision D14: a fatal halt sets HALT and CAUSE, puts SEQ to Idle and changes nothing else. Then a
command presented has no effect, and the run is not a completed one. That the halted block, which U11 calls stuck, takes a step
that changes nothing of it and leaves the words at the port is the model's choice (DESIGN CHOICE, log 9); the sample of the
reset input that the step takes is log 10. -/
def Obligations.HaltedBlockDoesNothing : Prop :=
  (∀ (s : State) (c : Cause), s.raiseFatal c = { s with halt := some c, seq := .idle }) ∧
  ∀ s : State, s.halt.isSome = true →
    (s.resetAsserted = false → step s = .next { s with inp := { s.inp with reset := s.inp.reset.tail } }) ∧
    (∀ n, s.noReset = true → steps n s = .next { s with inp := { s.inp with reset := s.inp.reset.drop n } }) ∧
    (∀ i, i ≠ .takeover → exec i s = .next s) ∧
    s.completed = false

/-- R57: the codes; and a step that is not a reset gives at most one response, only when it ends a command: SEQ is Idle and
HALT is 0 after it. A fatal error gives none. -/
def Obligations.ResponsesOnCompletionOnly : Prop :=
  (Response.ok.code = 0x00 ∧ Response.incompatibleSettings.code = 0x01 ∧
    Cause.doubleExtraction.code = 0x02 ∧ Cause.misuse.code = 0x03) ∧
  ∀ s t : State, s.resetAsserted = false → step s = .next t →
    (t.rsp = s.rsp ∨ ∃ r, t.rsp = s.rsp ++ [r] ∧ t.seq = .idle ∧ t.halt = none) ∧
    (s.halt = none → t.halt ≠ none → t.rsp = s.rsp) ∧
    (s.seq ≠ .idle → s.halt = none → t.seq = .idle → t.rsp = s.rsp ++ [.ok])

/-- R38: accepting a command makes no register access. EXTRACT and the setters make none at all; COMMIT and TXB make theirs
in the micro-steps that follow. The frame of `exec` for every command: what may change, and that nothing else does. -/
def Obligations.CommandAcceptanceFrame : Prop :=
  ∀ (s t : State) (i : Instr), exec i s = .next t →
    (∀ a, t.mem.read a = s.mem.read a) ∧ t.mem = s.mem ∧ t.bus = s.bus ∧ t.tx = s.tx ∧ t.hw = s.hw ∧ t.inp = s.inp ∧
    t.phase = s.phase ∧
    (i ≠ .extract → t.taken = s.taken) ∧
    ((∀ c b, i ≠ .setcb c b) → t.cfg.clk = s.cfg.clk ∧ t.cfg.div = s.cfg.div) ∧
    ((∀ v, i ≠ .setsb v) → t.cfg.stop = s.cfg.stop) ∧
    ((∀ v, i ≠ .setcs v) → t.cfg.chsz = s.cfg.chsz) ∧
    ((∀ v, i ≠ .setmd v) → t.cfg.mode = s.cfg.mode) ∧
    (i ≠ .commit → (∀ b, i ≠ .txb b) → t.seq = s.seq) ∧
    (t.halt = s.halt ∨
      s.halt = none ∧ t.taken = s.taken ∧ t.cfg = s.cfg ∧ t.seq = s.seq ∧ t.rsp = s.rsp)

/-- R10, R20, R38: after COMMIT no step but reset changes the configuration, the phase, or a register other than DATA. -/
def Obligations.ConfigurationFrozenAfterCommit : Prop :=
  ∀ s t : State, Inv s → s.phase = .initialized → s.resetAsserted = false → step s = .next t →
    t.phase = .initialized ∧ t.cfg = s.cfg ∧ ∀ r, r ≠ .data → t.rf r = s.rf r

/-- R10: CFG.CLK "is stored and never used again": two blocks that differ in it alone step alike, and differ in it alone
afterwards or not at all. -/
def Obligations.StoredClockIsNeverUsed : Prop :=
  ∀ (s : State) (c : Operand),
    match step s with
    | .next t =>
      step { s with cfg := { s.cfg with clk := c } } = .next { t with cfg := { t.cfg with clk := c } } ∨
      step { s with cfg := { s.cfg with clk := c } } = .next t
    | .refused r => step { s with cfg := { s.cfg with clk := c } } = .refused r
    | .fault _ => False

/-- R13, R24, R43: no command reads a history, or a register other than STATUS: a block with other histories before its own
and any other register contents makes the same step, with the same events after them. -/
def Obligations.HistoriesAndRegistersAreNeverRead : Prop :=
  ∀ (s t : State) (bus : List BusEvent) (tx : List Byte) (rsp : List Response) (mem : Memory),
    s.resetAsserted = false → step s = .next t →
    ∃ mem', step { s with bus := bus ++ s.bus, tx := tx ++ s.tx, rsp := rsp ++ s.rsp, mem := mem } =
      .next { t with bus := bus ++ t.bus, tx := tx ++ t.tx, rsp := rsp ++ t.rsp, mem := mem' }

/-! ### Register accesses and transmission -/

/-- R31, R44: the register write: the register holds the value, all eight bits, every other address reads as before, one
event is appended, and TX gains the byte exactly at ADDR_DATA. It returns a state always: it cannot fail (R32). -/
def Obligations.RegisterWriteEffect : Prop :=
  ∀ (s : State) (r : Reg) (v : Byte),
    (s.memWrite r v).rf r = some v ∧
    (∀ a, a ≠ (s.hw.addr r).toNat → (s.memWrite r v).mem.read a = s.mem.read a) ∧
    (s.memWrite r v).bus = s.bus ++ [.wr (s.hw.addr r) v] ∧
    (s.memWrite r v).tx = (if s.hw.addr r = s.hw.addr .data then s.tx ++ [v] else s.tx) ∧
    s.memWrite r v = { s with mem := (s.memWrite r v).mem, bus := (s.memWrite r v).bus, tx := (s.memWrite r v).tx }

/-- R30, R41, R42: the register read: one event with the value returned; the value of STATUS is the peripheral's next answer
and of a register that holds a value is that value; nothing changes but the history and the answers still to come. What a
register without a value reads as is free (log 7). -/
def Obligations.RegisterReadEffect : Prop :=
  ∀ (s : State) (r : Reg),
    (s.memRead r).bus = s.bus ++ [.rd (s.hw.addr r) (s.readValue r)] ∧
    s.readValue .status = s.nextDraw ∧
    (∀ v, s.hw.addr r ≠ s.hw.addr .status → s.rf r = some v → s.readValue r = v) ∧
    (∃ i, s.memRead r = { s with bus := (s.memRead r).bus, inp := i } ∧ i.cmds = s.inp.cmds ∧ i.reset = s.inp.reset) ∧
    (∀ v rest, s.inp.status = v :: rest → s.nextDraw = v ∧ (s.memRead .status).inp.status = rest) ∧
    ∀ n, (s.memRead .status).drawAt n = s.drawAt (n + 1)

/-- R75: the two ready predicates and how they relate (the spec's own derivation); the block at reset uses the mask test (D8,
log 5). -/
def Obligations.ReadyPredicates : Prop :=
  State.reset.hw.readyTest = .mask ∧
  ∀ (hw : Params) (v : Byte),
    ready { hw with readyTest := .mask } v = v.getLsbD hw.readyPos.val ∧
    (ready { hw with readyTest := .threshold } v = true ↔ 2 ^ hw.readyPos.val ≤ v.toNat) ∧
    (ready { hw with readyTest := .mask } v = true → ready { hw with readyTest := .threshold } v = true) ∧
    (ready { hw with readyTest := .mask } v ≠ ready { hw with readyTest := .threshold } v ↔
      v.getLsbD hw.readyPos.val = false ∧ ∃ i, hw.readyPos.val < i ∧ v.getLsbD i = true) ∧
    (hw.readyPos = 7 → ready { hw with readyTest := .mask } v = ready { hw with readyTest := .threshold } v)

/-- R76: TXB in TAKEN = 1, Initialized is accepted whatever the mode; each poll is one read of STATUS, after which SEQ is
TxWrite exactly if the value read is ready; the write of DATA follows without a further test, with the byte unchanged and the
response OK. That acceptance is a step of its own is the model's reading (log 8). -/
def Obligations.TxbPollsThenWrites : Prop :=
  (∀ (s : State) (b : Byte), s.halt = none → s.seq = .idle → s.taken = true → s.phase = .initialized →
    exec (.txb b) s = .next { s with seq := .txPoll b }) ∧
  (∀ (s : State) (b : Byte), s.resetAsserted = false → s.halt = none → s.seq = .txPoll b →
    ∃ i, step s = .next
      { s with
        bus := s.bus ++ [.rd (s.hw.addr .status) s.nextDraw]
        seq := if ready s.hw s.nextDraw = true then .txWrite b else .txPoll b
        inp := i } ∧ i.cmds = s.inp.cmds ∧ i.reset = s.inp.reset.tail) ∧
  (∀ (s : State) (b : Byte), s.resetAsserted = false → s.halt = none → s.seq = .txWrite b →
    step s = .next
      { s with
        mem := s.mem.write (s.hw.addr .data).toNat b
        bus := s.bus ++ [.wr (s.hw.addr .data) b]
        tx := s.tx ++ [b]
        seq := .idle
        rsp := s.rsp ++ [.ok]
        inp := { s.inp with reset := s.inp.reset.tail } })

/-- R76, R38: the frame of the two kinds of TXB micro-step in memory: a poll changes no address, the write changes DATA's
address alone; no step of TXB touches TAKEN, PHASE, HALT or CFG. -/
def Obligations.TxbMicroStepFrame : Prop :=
  ∀ (s t : State) (b : Byte), s.resetAsserted = false → s.halt = none → s.seq = .txPoll b ∨ s.seq = .txWrite b →
    step s = .next t →
    (s.seq = .txPoll b → (∀ a, t.mem.read a = s.mem.read a) ∧ t.tx = s.tx ∧ t.rsp = s.rsp) ∧
    (s.seq = .txWrite b → t.mem.read (s.hw.addr .data).toNat = some b ∧
      ∀ a, a ≠ (s.hw.addr .data).toNat → t.mem.read a = s.mem.read a) ∧
    t.hw = s.hw ∧ t.taken = s.taken ∧ t.phase = s.phase ∧ t.halt = none ∧ t.cfg = s.cfg

/-- R76, R78: a TXB completes under the premise that the peripheral eventually answers a poll with a ready value: if the
(n+1)-th coming answer is the first ready one, then after n+2 micro-steps, which are n+1 polls and the write, the byte has gone
out, unchanged and once, and the response is OK. -/
def Obligations.TxbCompletesWhenPeripheralReady : Prop :=
  ∀ (s : State) (b : Byte) (n : Nat), s.noReset = true → s.halt = none → s.seq = .txPoll b →
    (∀ m, m < n → ready s.hw (s.drawAt m) = false) → ready s.hw (s.drawAt n) = true →
    ∃ t, steps (n + 2) s = .next t ∧ t.seq = .idle ∧ t.halt = none ∧
      t.bus = s.bus ++ (List.range (n + 1)).map (fun m => .rd (s.hw.addr .status) (s.drawAt m)) ++
        [.wr (s.hw.addr .data) b] ∧
      t.tx = s.tx ++ [b] ∧ t.rf .data = some b ∧ t.rsp = s.rsp ++ [.ok] ∧
      t.phase = s.phase ∧ t.taken = s.taken ∧ t.cfg = s.cfg ∧ t.inp.cmds = s.inp.cmds

/-- R78: while the peripheral answers not ready the TXB polls on, without bound: after any number of such answers SEQ is
still TxPoll(b), BUS has grown by those reads alone, nothing was written and no response given, and HALT is not set. -/
def Obligations.TxbPollsWithoutBound : Prop :=
  ∀ (s : State) (b : Byte) (n : Nat), s.noReset = true → s.halt = none → s.seq = .txPoll b →
    (∀ m, m < n → ready s.hw (s.drawAt m) = false) →
    ∃ t, steps n s = .next t ∧ t.seq = .txPoll b ∧ t.halt = none ∧
      t.bus = s.bus ++ (List.range n).map (fun m => .rd (s.hw.addr .status) (s.drawAt m)) ∧
      t.mem = s.mem ∧ t.tx = s.tx ∧ t.rsp = s.rsp ∧ t.inp.cmds = s.inp.cmds

/-- R59, R77: the words of TXS send the bytes in order, poll, write, poll, write: under the premise that the peripheral is
ready often enough, the run reaches a state where every byte has gone out once and in order, each after its own successful
poll, one response OK for each, and the host's further words are still to come. For no bytes nothing happens. That the words listed
wait at the port while a TXB is in progress is the model's choice (DESIGN CHOICE, logs 1 and 9). -/
def Obligations.TxsSendsBytesInOrder : Prop :=
  ∀ (s : State) (bytes : List Byte) (rest : List CommandWord), s.noReset = true → s.halt = none → s.seq = .idle →
    s.taken = true → s.phase = .initialized → s.inp.cmds = txsWords bytes ++ rest → PeripheralReadyTimes bytes.length s →
    ∃ n t events, steps n s = .next t ∧ t.seq = .idle ∧ t.halt = none ∧ t.phase = .initialized ∧ t.inp.cmds = rest ∧
      t.bus = s.bus ++ events ∧ TxsEvents s.hw bytes events ∧ t.tx = s.tx ++ bytes ∧
      t.rsp = s.rsp ++ List.replicate bytes.length .ok ∧ t.cfg = s.cfg ∧ (bytes = [] → n = 0)

/-! ### Invariants -/

/-- The structural invariant (`Inv`) holds at reset, for every parameter set R6 admits and at `State.reset`. -/
def Obligations.ResetStateHasInvariant : Prop :=
  (∀ (hw : Params) (inp : Inputs), hw.wf = true → Inv (State.resetWith hw inp)) ∧ Inv State.reset

/-- Every step keeps the structural invariant: canonical register space, only the five written registers hold values, legal
selectors (R12), a lawful lifecycle (R20, R88), no command in progress outside its phase or in a halt, and TX the DATA writes
of BUS (R24). -/
def Obligations.StepKeepsInvariant : Prop :=
  ∀ s t : State, Inv s → step s = .next t → Inv t

/-- The history invariant (`HistoryInv`) holds at reset. -/
def Obligations.ResetStateHasHistoryInvariant : Prop :=
  (∀ (hw : Params) (inp : Inputs), hw.wf = true → HistoryInv (State.resetWith hw inp)) ∧ HistoryInv State.reset

/-- Every step keeps the history invariant: each register holds its last write (R42), and BUS is always a prefix of COMMIT's
four writes in order, then transmissions in which every write of DATA comes right after a poll that found ready (R39). -/
def Obligations.StepKeepsHistoryInvariant : Prop :=
  ∀ s t : State, Inv s → HistoryInv s → step s = .next t → HistoryInv t

/-- R43: in Initialized the registers reflect the configuration: BAUDL, BAUDH, FRAME and MODEREG hold what COMMIT wrote of
the fields as they still stand, in every state that has the two invariants. -/
def Obligations.InitializedRegistersReflectConfiguration : Prop :=
  ∀ s : State, Inv s → HistoryInv s → s.phase = .initialized →
    s.rf .baudl = some (divLow s.cfg.div) ∧ s.rf .baudh = some (divHigh s.cfg.div) ∧
    s.rf .frame = some (s.cfg.stop ||| s.cfg.chsz) ∧ s.rf .modereg = some s.cfg.mode ∧ s.rf .status = none
end

