-- ==== Sys2Proof/Laws/Decode.lean ====
section
/-! SUPPORT. The fields of a command word: packing and unpacking are inverse (R50). -/

namespace Sys2Proof

/-- Bit i of a packed word (R50). -/
theorem getLsbD_packWord (op : Byte) (a b : Operand) (i : Nat) :
    (packWord op a b).getLsbD i =
      if i < 32 then b.getLsbD i else if i < 64 then a.getLsbD (i - 32) else op.getLsbD (i - 64) := by
  show (op ++ a ++ b).getLsbD i = _
  rw [BitVec.getLsbD_append, BitVec.getLsbD_append]
  by_cases h : i < 32
  · simp [h]
  · by_cases h2 : i < 64
    · simp [h, h2, show i - 32 < 32 by omega]
    · simp [h, h2, show ¬ i - 32 < 32 by omega, show i - 32 - 32 = i - 64 by omega]

@[simp] theorem opField_packWord (op : Byte) (a b : Operand) : opField (packWord op a b) = op := by
  ext i hi
  simp [opField, BitVec.getElem_extractLsb', getLsbD_packWord, show ¬ 64 + i < 32 by omega, hi,
    BitVec.getLsbD_eq_getElem]

@[simp] theorem aField_packWord (op : Byte) (a b : Operand) : aField (packWord op a b) = a := by
  ext i hi
  simp [aField, BitVec.getElem_extractLsb', getLsbD_packWord, show 32 + i < 64 by omega, hi, BitVec.getLsbD_eq_getElem]

theorem extract_packWord (op : Byte) (a b : Operand) (j n : Nat) (h : j + n ≤ 32) :
    (packWord op a b).extractLsb' j n = b.extractLsb' j n := by
  ext i hi
  simp [BitVec.getElem_extractLsb', getLsbD_packWord, show j + i < 32 by omega]

@[simp] theorem bField_packWord (op : Byte) (a b : Operand) : bField (packWord op a b) = b := by
  simp [bField, extract_packWord]

@[simp] theorem bValue_packWord (op : Byte) (a : Operand) (v : Byte) :
    bValue (packWord op a (v.setWidth 32)) = v := by
  ext i hi
  simp [bValue, extract_packWord, BitVec.getElem_extractLsb', hi, BitVec.getLsbD_eq_getElem]
  omega

@[simp] theorem bUnused_packWord (op : Byte) (a : Operand) (v : Byte) :
    bUnused (packWord op a (v.setWidth 32)) = 0 := by
  ext i hi
  simp [bUnused, extract_packWord, BitVec.getElem_extractLsb', BitVec.getLsbD_of_ge]

/-- A word is its three fields (R50). -/
theorem packWord_fields (w : CommandWord) : packWord (opField w) (aField w) (bField w) = w := by
  ext i hi
  rw [← BitVec.getLsbD_eq_getElem, ← BitVec.getLsbD_eq_getElem, getLsbD_packWord]
  simp only [opField, aField, bField, BitVec.getLsbD_extractLsb']
  split
  · simp [*]
  · split
    · simp [show i - 32 < 32 by omega, show 32 + (i - 32) = i by omega]
    · simp [show i - 64 < 8 by omega, show 64 + (i - 64) = i by omega]

/-- B is its value where its upper bits are 0 (R50, R51). -/
theorem bValue_setWidth {w : CommandWord} (h : bUnused w = 0) : (bValue w).setWidth 32 = bField w := by
  ext i hi
  simp [bValue, bField, BitVec.getElem_extractLsb', BitVec.getElem_setWidth]
  intro hw
  by_contra h8
  have := congrArg (fun x => x.getLsbD (i - 8)) h
  simp [bUnused, show i - 8 < 24 by omega, show 8 + (i - 8) = i by omega, hw] at this

/-- The decoder answers with a command: its shape fits and its operands are legal. -/
theorem decode_ok {w : CommandWord} {i : Instr} (h : decode w = .ok i) : decodeShape w = .ok i ∧ i.reserved = none := by
  unfold decode at h
  cases hj : decodeShape w with
  | error why => simp [hj] at h
  | ok j =>
    simp only [hj] at h
    cases hr : j.reserved with
    | some why => simp [hr] at h
    | none =>
      simp only [hr, Except.ok.injEq] at h
      subst h
      exact ⟨rfl, hr⟩

theorem decode_wellFormed {w : CommandWord} {i : Instr} (h : decode w = .ok i) : i.wellFormed = true := by
  simp [Instr.wellFormed, (decode_ok h).2]

theorem shapeN_ok {w : CommandWord} {i j : Instr} (h : shapeN w i = .ok j) : aField w = 0 ∧ bField w = 0 ∧ j = i := by
  unfold shapeN at h
  by_cases ha : aField w = 0#32 <;> by_cases hb : bField w = 0#32 <;> simp_all

theorem shapeS_ok {w : CommandWord} {mk : Byte → Instr} {j : Instr} (h : shapeS w mk = .ok j) :
    aField w = 0 ∧ bUnused w = 0 ∧ j = mk (bValue w) := by
  unfold shapeS at h
  by_cases ha : aField w = 0#32 <;> by_cases hb : bUnused w = 0#24 <;> simp_all

theorem shapeAB_ok {w : CommandWord} {mk : Operand → Operand → Instr} {j : Instr} (h : shapeAB w mk = .ok j) :
    j = mk (aField w) (bField w) := by
  simpa [shapeAB, eq_comm] using h

end Sys2Proof
end

