-- ==== Sys2Proof/Laws/Memory.lean ====
section
/-! SUPPORT. The laws of the register space: read after write, a write leaves every other address alone, and a write keeps
the canonical form. -/

namespace Sys2Proof.Machine

namespace Memory

@[simp] theorem read_nil (a : Nat) : Memory.read [] a = none := rfl

theorem read_write (m : Memory) (a : Nat) (v : Byte) (x : Nat) :
    (m.write a v).read x = if x = a then some v else m.read x := by
  induction m with
  | nil => simp [Memory.write, Memory.read, eq_comm]
  | cons cell rest ih =>
    obtain ⟨b, w⟩ := cell
    simp only [Memory.write]
    split
    · simp [Memory.read, eq_comm]
    · split
      · subst a
        by_cases hx : x = b <;> simp [Memory.read, hx, eq_comm]
      · simp only [Memory.read, ih]
        by_cases hx : b = x <;> simp_all; omega

@[simp] theorem read_write_same (m : Memory) (a : Nat) (v : Byte) : (m.write a v).read a = some v := by
  simp [read_write]

theorem read_write_other (m : Memory) {a x : Nat} (v : Byte) (h : x ≠ a) : (m.write a v).read x = m.read x := by
  simp [read_write, h]

/-- The addresses after a write are those before, and the one written. -/
theorem mem_write_fst {m : Memory} {a : Nat} {v : Byte} {x : Nat} (h : x ∈ (m.write a v).map Prod.fst) :
    x = a ∨ x ∈ m.map Prod.fst := by
  induction m with
  | nil => simpa [Memory.write] using h
  | cons cell rest ih =>
    obtain ⟨b, w⟩ := cell
    simp only [Memory.write] at h
    split at h
    · simpa using h
    · split at h <;> simp only [List.map_cons, List.mem_cons] at h ⊢
      · tauto
      · rcases h with h | h
        · tauto
        · have := ih h; tauto

theorem wf_iff (m : Memory) :
    m.wf = true ↔ (m.map Prod.fst).Pairwise (· < ·) ∧ ∀ x ∈ m.map Prod.fst, x < 256 := by
  simp [Memory.wf]

theorem wf_nil : Memory.wf [] = true := by decide

theorem pairwise_write {m : Memory} (a : Nat) (v : Byte) (h : (m.map Prod.fst).Pairwise (· < ·)) :
    ((m.write a v).map Prod.fst).Pairwise (· < ·) := by
  induction m with
  | nil => simp [Memory.write]
  | cons cell rest ih =>
    obtain ⟨b, w⟩ := cell
    simp only [List.map_cons, List.pairwise_cons] at h
    simp only [Memory.write]
    split
    · simp only [List.map_cons, List.pairwise_cons, List.mem_cons]
      refine ⟨?_, h⟩
      rintro x (rfl | hx)
      · assumption
      · have := h.1 x hx; omega
    · split
      · subst a
        simpa [List.pairwise_cons] using h
      · simp only [List.map_cons, List.pairwise_cons]
        refine ⟨fun x hx => ?_, ih h.2⟩
        rcases mem_write_fst hx with rfl | hx
        · omega
        · exact h.1 x hx

/-- A write at an 8-bit address keeps the canonical form. -/
theorem wf_write {m : Memory} (a : Byte) (v : Byte) (h : m.wf = true) : (m.write a.toNat v).wf = true := by
  rw [wf_iff] at h ⊢
  refine ⟨pairwise_write _ v h.1, fun x hx => ?_⟩
  rcases mem_write_fst hx with rfl | hx
  · exact a.isLt
  · exact h.2 x hx

end Memory

end Sys2Proof.Machine
end

