-- ==== Sys2Proof/Laws/State.lean ====
section
/-! SUPPORT. For each update of State, what it does to each field: one lemma per field, true by definition. -/

namespace Sys2Proof.Machine

namespace State

variable (s : State)

@[simp] theorem setTaken_hw (v : Bool) : (s.setTaken v).hw = s.hw := rfl
@[simp] theorem setTaken_taken (v : Bool) : (s.setTaken v).taken = v := rfl
@[simp] theorem setTaken_phase (v : Bool) : (s.setTaken v).phase = s.phase := rfl
@[simp] theorem setTaken_halt (v : Bool) : (s.setTaken v).halt = s.halt := rfl
@[simp] theorem setTaken_seq (v : Bool) : (s.setTaken v).seq = s.seq := rfl
@[simp] theorem setTaken_cfg (v : Bool) : (s.setTaken v).cfg = s.cfg := rfl
@[simp] theorem setTaken_mem (v : Bool) : (s.setTaken v).mem = s.mem := rfl
@[simp] theorem setTaken_bus (v : Bool) : (s.setTaken v).bus = s.bus := rfl
@[simp] theorem setTaken_tx (v : Bool) : (s.setTaken v).tx = s.tx := rfl
@[simp] theorem setTaken_rsp (v : Bool) : (s.setTaken v).rsp = s.rsp := rfl
@[simp] theorem setTaken_inp (v : Bool) : (s.setTaken v).inp = s.inp := rfl

@[simp] theorem setPhase_hw (p : Phase) : (s.setPhase p).hw = s.hw := rfl
@[simp] theorem setPhase_taken (p : Phase) : (s.setPhase p).taken = s.taken := rfl
@[simp] theorem setPhase_phase (p : Phase) : (s.setPhase p).phase = p := rfl
@[simp] theorem setPhase_halt (p : Phase) : (s.setPhase p).halt = s.halt := rfl
@[simp] theorem setPhase_seq (p : Phase) : (s.setPhase p).seq = s.seq := rfl
@[simp] theorem setPhase_cfg (p : Phase) : (s.setPhase p).cfg = s.cfg := rfl
@[simp] theorem setPhase_mem (p : Phase) : (s.setPhase p).mem = s.mem := rfl
@[simp] theorem setPhase_bus (p : Phase) : (s.setPhase p).bus = s.bus := rfl
@[simp] theorem setPhase_tx (p : Phase) : (s.setPhase p).tx = s.tx := rfl
@[simp] theorem setPhase_rsp (p : Phase) : (s.setPhase p).rsp = s.rsp := rfl
@[simp] theorem setPhase_inp (p : Phase) : (s.setPhase p).inp = s.inp := rfl

@[simp] theorem setHalt_hw (h : Option Cause) : (s.setHalt h).hw = s.hw := rfl
@[simp] theorem setHalt_taken (h : Option Cause) : (s.setHalt h).taken = s.taken := rfl
@[simp] theorem setHalt_phase (h : Option Cause) : (s.setHalt h).phase = s.phase := rfl
@[simp] theorem setHalt_halt (h : Option Cause) : (s.setHalt h).halt = h := rfl
@[simp] theorem setHalt_seq (h : Option Cause) : (s.setHalt h).seq = s.seq := rfl
@[simp] theorem setHalt_cfg (h : Option Cause) : (s.setHalt h).cfg = s.cfg := rfl
@[simp] theorem setHalt_mem (h : Option Cause) : (s.setHalt h).mem = s.mem := rfl
@[simp] theorem setHalt_bus (h : Option Cause) : (s.setHalt h).bus = s.bus := rfl
@[simp] theorem setHalt_tx (h : Option Cause) : (s.setHalt h).tx = s.tx := rfl
@[simp] theorem setHalt_rsp (h : Option Cause) : (s.setHalt h).rsp = s.rsp := rfl
@[simp] theorem setHalt_inp (h : Option Cause) : (s.setHalt h).inp = s.inp := rfl

@[simp] theorem setSeq_hw (q : Seq) : (s.setSeq q).hw = s.hw := rfl
@[simp] theorem setSeq_taken (q : Seq) : (s.setSeq q).taken = s.taken := rfl
@[simp] theorem setSeq_phase (q : Seq) : (s.setSeq q).phase = s.phase := rfl
@[simp] theorem setSeq_halt (q : Seq) : (s.setSeq q).halt = s.halt := rfl
@[simp] theorem setSeq_seq (q : Seq) : (s.setSeq q).seq = q := rfl
@[simp] theorem setSeq_cfg (q : Seq) : (s.setSeq q).cfg = s.cfg := rfl
@[simp] theorem setSeq_mem (q : Seq) : (s.setSeq q).mem = s.mem := rfl
@[simp] theorem setSeq_bus (q : Seq) : (s.setSeq q).bus = s.bus := rfl
@[simp] theorem setSeq_tx (q : Seq) : (s.setSeq q).tx = s.tx := rfl
@[simp] theorem setSeq_rsp (q : Seq) : (s.setSeq q).rsp = s.rsp := rfl
@[simp] theorem setSeq_inp (q : Seq) : (s.setSeq q).inp = s.inp := rfl

@[simp] theorem setCfg_hw (c : Cfg) : (s.setCfg c).hw = s.hw := rfl
@[simp] theorem setCfg_taken (c : Cfg) : (s.setCfg c).taken = s.taken := rfl
@[simp] theorem setCfg_phase (c : Cfg) : (s.setCfg c).phase = s.phase := rfl
@[simp] theorem setCfg_halt (c : Cfg) : (s.setCfg c).halt = s.halt := rfl
@[simp] theorem setCfg_seq (c : Cfg) : (s.setCfg c).seq = s.seq := rfl
@[simp] theorem setCfg_cfg (c : Cfg) : (s.setCfg c).cfg = c := rfl
@[simp] theorem setCfg_mem (c : Cfg) : (s.setCfg c).mem = s.mem := rfl
@[simp] theorem setCfg_bus (c : Cfg) : (s.setCfg c).bus = s.bus := rfl
@[simp] theorem setCfg_tx (c : Cfg) : (s.setCfg c).tx = s.tx := rfl
@[simp] theorem setCfg_rsp (c : Cfg) : (s.setCfg c).rsp = s.rsp := rfl
@[simp] theorem setCfg_inp (c : Cfg) : (s.setCfg c).inp = s.inp := rfl

@[simp] theorem setInp_hw (i : Inputs) : (s.setInp i).hw = s.hw := rfl
@[simp] theorem setInp_taken (i : Inputs) : (s.setInp i).taken = s.taken := rfl
@[simp] theorem setInp_phase (i : Inputs) : (s.setInp i).phase = s.phase := rfl
@[simp] theorem setInp_halt (i : Inputs) : (s.setInp i).halt = s.halt := rfl
@[simp] theorem setInp_seq (i : Inputs) : (s.setInp i).seq = s.seq := rfl
@[simp] theorem setInp_cfg (i : Inputs) : (s.setInp i).cfg = s.cfg := rfl
@[simp] theorem setInp_mem (i : Inputs) : (s.setInp i).mem = s.mem := rfl
@[simp] theorem setInp_bus (i : Inputs) : (s.setInp i).bus = s.bus := rfl
@[simp] theorem setInp_tx (i : Inputs) : (s.setInp i).tx = s.tx := rfl
@[simp] theorem setInp_rsp (i : Inputs) : (s.setInp i).rsp = s.rsp := rfl
@[simp] theorem setInp_inp (i : Inputs) : (s.setInp i).inp = i := rfl

@[simp] theorem logBus_hw (e : BusEvent) : (s.logBus e).hw = s.hw := rfl
@[simp] theorem logBus_taken (e : BusEvent) : (s.logBus e).taken = s.taken := rfl
@[simp] theorem logBus_phase (e : BusEvent) : (s.logBus e).phase = s.phase := rfl
@[simp] theorem logBus_halt (e : BusEvent) : (s.logBus e).halt = s.halt := rfl
@[simp] theorem logBus_seq (e : BusEvent) : (s.logBus e).seq = s.seq := rfl
@[simp] theorem logBus_cfg (e : BusEvent) : (s.logBus e).cfg = s.cfg := rfl
@[simp] theorem logBus_mem (e : BusEvent) : (s.logBus e).mem = s.mem := rfl
@[simp] theorem logBus_bus (e : BusEvent) : (s.logBus e).bus = s.bus ++ [e] := rfl
@[simp] theorem logBus_tx (e : BusEvent) : (s.logBus e).tx = s.tx := rfl
@[simp] theorem logBus_rsp (e : BusEvent) : (s.logBus e).rsp = s.rsp := rfl
@[simp] theorem logBus_inp (e : BusEvent) : (s.logBus e).inp = s.inp := rfl

@[simp] theorem respond_hw (r : Response) : (s.respond r).hw = s.hw := rfl
@[simp] theorem respond_taken (r : Response) : (s.respond r).taken = s.taken := rfl
@[simp] theorem respond_phase (r : Response) : (s.respond r).phase = s.phase := rfl
@[simp] theorem respond_halt (r : Response) : (s.respond r).halt = s.halt := rfl
@[simp] theorem respond_seq (r : Response) : (s.respond r).seq = s.seq := rfl
@[simp] theorem respond_cfg (r : Response) : (s.respond r).cfg = s.cfg := rfl
@[simp] theorem respond_mem (r : Response) : (s.respond r).mem = s.mem := rfl
@[simp] theorem respond_bus (r : Response) : (s.respond r).bus = s.bus := rfl
@[simp] theorem respond_tx (r : Response) : (s.respond r).tx = s.tx := rfl
@[simp] theorem respond_rsp (r : Response) : (s.respond r).rsp = s.rsp ++ [r] := rfl
@[simp] theorem respond_inp (r : Response) : (s.respond r).inp = s.inp := rfl

@[simp] theorem memWrite_hw (r : Reg) (v : Byte) : (s.memWrite r v).hw = s.hw := rfl
@[simp] theorem memWrite_taken (r : Reg) (v : Byte) : (s.memWrite r v).taken = s.taken := rfl
@[simp] theorem memWrite_phase (r : Reg) (v : Byte) : (s.memWrite r v).phase = s.phase := rfl
@[simp] theorem memWrite_halt (r : Reg) (v : Byte) : (s.memWrite r v).halt = s.halt := rfl
@[simp] theorem memWrite_seq (r : Reg) (v : Byte) : (s.memWrite r v).seq = s.seq := rfl
@[simp] theorem memWrite_cfg (r : Reg) (v : Byte) : (s.memWrite r v).cfg = s.cfg := rfl
@[simp] theorem memWrite_mem (r : Reg) (v : Byte) : (s.memWrite r v).mem = s.mem.write (s.hw.addr r).toNat v := rfl
@[simp] theorem memWrite_bus (r : Reg) (v : Byte) : (s.memWrite r v).bus = s.bus ++ [.wr (s.hw.addr r) v] := rfl
@[simp] theorem memWrite_tx (r : Reg) (v : Byte) : (s.memWrite r v).tx = if s.hw.addr r = s.hw.addr .data then s.tx ++ [v] else s.tx := rfl
@[simp] theorem memWrite_rsp (r : Reg) (v : Byte) : (s.memWrite r v).rsp = s.rsp := rfl
@[simp] theorem memWrite_inp (r : Reg) (v : Byte) : (s.memWrite r v).inp = s.inp := rfl

@[simp] theorem raiseFatal_hw (c : Cause) : (s.raiseFatal c).hw = s.hw := rfl
@[simp] theorem raiseFatal_taken (c : Cause) : (s.raiseFatal c).taken = s.taken := rfl
@[simp] theorem raiseFatal_phase (c : Cause) : (s.raiseFatal c).phase = s.phase := rfl
@[simp] theorem raiseFatal_halt (c : Cause) : (s.raiseFatal c).halt = some c := rfl
@[simp] theorem raiseFatal_seq (c : Cause) : (s.raiseFatal c).seq = .idle := rfl
@[simp] theorem raiseFatal_cfg (c : Cause) : (s.raiseFatal c).cfg = s.cfg := rfl
@[simp] theorem raiseFatal_mem (c : Cause) : (s.raiseFatal c).mem = s.mem := rfl
@[simp] theorem raiseFatal_bus (c : Cause) : (s.raiseFatal c).bus = s.bus := rfl
@[simp] theorem raiseFatal_tx (c : Cause) : (s.raiseFatal c).tx = s.tx := rfl
@[simp] theorem raiseFatal_rsp (c : Cause) : (s.raiseFatal c).rsp = s.rsp := rfl
@[simp] theorem raiseFatal_inp (c : Cause) : (s.raiseFatal c).inp = s.inp := rfl

@[simp] theorem hardReset_hw : s.hardReset.hw = s.hw := rfl
@[simp] theorem hardReset_taken : s.hardReset.taken = false := rfl
@[simp] theorem hardReset_phase : s.hardReset.phase = .unconfigured := rfl
@[simp] theorem hardReset_halt : s.hardReset.halt = none := rfl
@[simp] theorem hardReset_seq : s.hardReset.seq = .idle := rfl
@[simp] theorem hardReset_cfg : s.hardReset.cfg = { clk := Config.resetClk, div := Config.resetDiv, stop := s.hw.resetStop, chsz := s.hw.resetChsz, mode := s.hw.resetMode } := rfl
@[simp] theorem hardReset_mem : s.hardReset.mem = [] := rfl
@[simp] theorem hardReset_bus : s.hardReset.bus = [] := rfl
@[simp] theorem hardReset_tx : s.hardReset.tx = [] := rfl
@[simp] theorem hardReset_rsp : s.hardReset.rsp = [] := rfl
@[simp] theorem hardReset_inp : s.hardReset.inp = s.inp := rfl

@[simp] theorem sampled_hw : s.sampled.hw = s.hw := rfl
@[simp] theorem sampled_taken : s.sampled.taken = s.taken := rfl
@[simp] theorem sampled_phase : s.sampled.phase = s.phase := rfl
@[simp] theorem sampled_halt : s.sampled.halt = s.halt := rfl
@[simp] theorem sampled_seq : s.sampled.seq = s.seq := rfl
@[simp] theorem sampled_cfg : s.sampled.cfg = s.cfg := rfl
@[simp] theorem sampled_mem : s.sampled.mem = s.mem := rfl
@[simp] theorem sampled_bus : s.sampled.bus = s.bus := rfl
@[simp] theorem sampled_tx : s.sampled.tx = s.tx := rfl
@[simp] theorem sampled_rsp : s.sampled.rsp = s.rsp := rfl
@[simp] theorem sampled_inp : s.sampled.inp = { s.inp with reset := s.inp.reset.tail } := rfl

@[simp] theorem taking_hw : s.taking.hw = s.hw := rfl
@[simp] theorem taking_taken : s.taking.taken = s.taken := rfl
@[simp] theorem taking_phase : s.taking.phase = s.phase := rfl
@[simp] theorem taking_halt : s.taking.halt = s.halt := rfl
@[simp] theorem taking_seq : s.taking.seq = s.seq := rfl
@[simp] theorem taking_cfg : s.taking.cfg = s.cfg := rfl
@[simp] theorem taking_mem : s.taking.mem = s.mem := rfl
@[simp] theorem taking_bus : s.taking.bus = s.bus := rfl
@[simp] theorem taking_tx : s.taking.tx = s.tx := rfl
@[simp] theorem taking_rsp : s.taking.rsp = s.rsp := rfl
@[simp] theorem taking_inp : s.taking.inp = { s.inp with cmds := s.inp.cmds.tail } := rfl

end State

end Sys2Proof.Machine
end

