-- ==== Sys2Proof/Laws/Ops.lean ====
section
/-! SUPPORT. One lemma per shared operation that says everything it can do: the register accesses, the order of checks on
one command, and what a command can answer. -/

namespace Sys2Proof.Machine

namespace State

variable (s : State)

/-- Taking an answer of the peripheral changes nothing but the inputs. -/
theorem dropDraw_eq : ∃ i, s.dropDraw = s.setInp i ∧ i.cmds = s.inp.cmds ∧ i.reset = s.inp.reset := by
  unfold dropDraw
  split <;> exact ⟨_, rfl, rfl, rfl⟩

/-- A register read appends its event, may use up an answer of the peripheral, and changes nothing else (R30, R41). -/
theorem memRead_eq (r : Reg) :
    ∃ i, s.memRead r = (s.setInp i).logBus (.rd (s.hw.addr r) (s.readValue r)) ∧
      i.cmds = s.inp.cmds ∧ i.reset = s.inp.reset := by
  unfold memRead
  split
  · obtain ⟨i, h, hc, hr⟩ := s.dropDraw_eq
    exact ⟨i, by rw [h], hc, hr⟩
  · exact ⟨s.inp, rfl, rfl, rfl⟩

@[simp] theorem readsDraw_status : s.readsDraw .status = true := by simp [readsDraw]

@[simp] theorem readValue_status : s.readValue .status = s.nextDraw := by simp [readValue]

theorem memRead_status : s.memRead .status = s.dropDraw.logBus (.rd (s.hw.addr .status) s.nextDraw) := by
  simp [memRead]

/-- What each register holds after a write (R31, R42): registers at other addresses keep their value. -/
theorem rf_memWrite (r q : Reg) (v : Byte) :
    (s.memWrite r v).rf q = if s.hw.addr q = s.hw.addr r then some v else s.rf q := by
  simp [rf, Memory.read_write, BitVec.toNat_inj]

theorem accepts_iff : s.accepts = true ↔ s.halt = none ∧ s.seq = .idle := by
  simp [accepts, halted]

theorem configurable_iff : s.configurable = true ↔ s.taken = true ∧ s.phase = .unconfigured := by
  simp [configurable]

theorem transmittable_iff : s.transmittable = true ↔ s.taken = true ∧ s.phase = .initialized := by
  simp [transmittable]

end State

/-- Everything `runCommand` can do with a next state (R85). -/
theorem runCommand_next {why : Option Reserved} {admitted : Bool} {c : Cause} {effect : State → State} {s t : State}
    (h : runCommand why admitted c effect s = .next t) :
    (s.accepts = false ∧ t = s) ∨
    (s.accepts = true ∧ why = none ∧ admitted = false ∧ t = s.raiseFatal c) ∨
    (s.accepts = true ∧ why = none ∧ admitted = true ∧ t = effect s) := by
  unfold runCommand at h
  cases hs : s.accepts <;> cases why <;> cases admitted <;> simp_all

/-- The command runs: its own effect (R85). -/
theorem runCommand_admitted {c : Cause} {effect : State → State} {s : State} (hs : s.accepts = true) :
    runCommand none true c effect s = .next (effect s) := by
  simp [runCommand, hs]

/-- The command is not admitted: the fatal halt (R83, R85). -/
theorem runCommand_fatal {c : Cause} {effect : State → State} {s : State} (hs : s.accepts = true) :
    runCommand none false c effect s = .next (s.raiseFatal c) := by
  simp [runCommand, hs]

/-- The command is not accepted: no effect (R85 item 1, R86). -/
theorem runCommand_notAccepted {why : Option Reserved} {admitted : Bool} {c : Cause} {effect : State → State} {s : State}
    (hs : s.accepts = false) : runCommand why admitted c effect s = .next s := by
  simp [runCommand, hs]

/-- SETCB stores a clock and a divisor and answers OK, or only answers IncompatibleSettings (R65). -/
theorem setcbEffect_cases (clockHz baud : Operand) (s : State) :
    (∃ d, divisor clockHz baud = some d ∧
      setcbEffect clockHz baud s = (s.setCfg { s.cfg with clk := clockHz, div := d }).respond .ok) ∨
    (divisor clockHz baud = none ∧ setcbEffect clockHz baud s = s.respond .incompatibleSettings) := by
  unfold setcbEffect
  cases divisor clockHz baud <;> simp

/-! Each command over the one shared operation (R61, R65, R67, R68, R69, R71, R76). -/

theorem exec_extract (s : State) :
    exec .extract s = runCommand none (!s.taken) .doubleExtraction (fun s => (s.setTaken true).respond .ok) s := rfl

theorem exec_takeover (s : State) : exec .takeover s = .refused .takeover := rfl

theorem exec_setcb (clockHz baud : Operand) (s : State) :
    exec (.setcb clockHz baud) s =
      runCommand (Instr.reserved (.setcb clockHz baud)) s.configurable .misuse (setcbEffect clockHz baud) s := rfl

theorem exec_setsb (v : Byte) (s : State) :
    exec (.setsb v) s = runCommand (Instr.reserved (.setsb v)) s.configurable .misuse
      (fun s => (s.setCfg { s.cfg with stop := v }).respond .ok) s := rfl

theorem exec_setcs (v : Byte) (s : State) :
    exec (.setcs v) s = runCommand (Instr.reserved (.setcs v)) s.configurable .misuse
      (fun s => (s.setCfg { s.cfg with chsz := v }).respond .ok) s := rfl

theorem exec_setmd (v : Byte) (s : State) :
    exec (.setmd v) s = runCommand (Instr.reserved (.setmd v)) s.configurable .misuse
      (fun s => (s.setCfg { s.cfg with mode := v }).respond .ok) s := rfl

theorem exec_commit (s : State) :
    exec .commit s = runCommand none s.configurable .misuse (fun s => s.setSeq (.commit 0)) s := rfl

theorem exec_txb (b : Byte) (s : State) :
    exec (.txb b) s = runCommand none s.transmittable .misuse (fun s => s.setSeq (.txPoll b)) s := rfl

/-- Everything a presented command can do with a next state: one case per row of the table of R88. -/
theorem exec_next {i : Instr} {s t : State} (h : exec i s = .next t) :
    (s.accepts = false ∧ t = s) ∨
    (s.accepts = true ∧ ∃ c, t = s.raiseFatal c) ∨
    (s.accepts = true ∧ i = .extract ∧ s.taken = false ∧ t = (s.setTaken true).respond .ok) ∨
    (s.accepts = true ∧ s.configurable = true ∧ (∃ clockHz baud, i = .setcb clockHz baud) ∧
      t = s.respond .incompatibleSettings) ∨
    (s.accepts = true ∧ s.configurable = true ∧ ∃ c, t = (s.setCfg c).respond .ok ∧
      ((∃ clockHz baud d, i = .setcb clockHz baud ∧ divisor clockHz baud = some d ∧
          c = { s.cfg with clk := clockHz, div := d }) ∨
        (∃ v, i = .setsb v ∧ legalStop v = true ∧ c = { s.cfg with stop := v }) ∨
        (∃ v, i = .setcs v ∧ legalChsz v = true ∧ c = { s.cfg with chsz := v }) ∨
        (∃ v, i = .setmd v ∧ legalMode v = true ∧ c = { s.cfg with mode := v }))) ∨
    (s.accepts = true ∧ s.configurable = true ∧ i = .commit ∧ t = s.setSeq (.commit 0)) ∨
    (s.accepts = true ∧ s.transmittable = true ∧ ∃ b, i = .txb b ∧ t = s.setSeq (.txPoll b)) := by
  cases i with
  | takeover => simp [exec, execTakeover] at h
  | extract =>
    rw [exec_extract] at h
    obtain h | ⟨ha, -, -, rfl⟩ | ⟨ha, -, ht, rfl⟩ := runCommand_next h
    · exact .inl h
    · exact .inr (.inl ⟨ha, _, rfl⟩)
    · exact .inr (.inr (.inl ⟨ha, rfl, by simpa using ht, rfl⟩))
  | setcb clockHz baud =>
    rw [exec_setcb] at h
    obtain h | ⟨ha, -, -, rfl⟩ | ⟨ha, -, hc, rfl⟩ := runCommand_next h
    · exact .inl h
    · exact .inr (.inl ⟨ha, _, rfl⟩)
    · obtain ⟨d, hd, he⟩ | ⟨-, he⟩ := setcbEffect_cases clockHz baud s
      · exact .inr (.inr (.inr (.inr (.inl ⟨ha, hc, _, he, .inl ⟨_, _, d, rfl, hd, rfl⟩⟩))))
      · exact .inr (.inr (.inr (.inl ⟨ha, hc, ⟨_, _, rfl⟩, he⟩)))
  | setsb v =>
    rw [exec_setsb] at h
    obtain h | ⟨ha, -, -, rfl⟩ | ⟨ha, hw, hc, rfl⟩ := runCommand_next h
    · exact .inl h
    · exact .inr (.inl ⟨ha, _, rfl⟩)
    · exact .inr (.inr (.inr (.inr (.inl ⟨ha, hc, _, rfl, .inr (.inl ⟨v, rfl, by simpa [Instr.reserved] using hw, rfl⟩)⟩))))
  | setcs v =>
    rw [exec_setcs] at h
    obtain h | ⟨ha, -, -, rfl⟩ | ⟨ha, hw, hc, rfl⟩ := runCommand_next h
    · exact .inl h
    · exact .inr (.inl ⟨ha, _, rfl⟩)
    · exact .inr (.inr (.inr (.inr (.inl
        ⟨ha, hc, _, rfl, .inr (.inr (.inl ⟨v, rfl, by simpa [Instr.reserved] using hw, rfl⟩))⟩))))
  | setmd v =>
    rw [exec_setmd] at h
    obtain h | ⟨ha, -, -, rfl⟩ | ⟨ha, hw, hc, rfl⟩ := runCommand_next h
    · exact .inl h
    · exact .inr (.inl ⟨ha, _, rfl⟩)
    · exact .inr (.inr (.inr (.inr (.inl
        ⟨ha, hc, _, rfl, .inr (.inr (.inr ⟨v, rfl, by simpa [Instr.reserved] using hw, rfl⟩))⟩))))
  | commit =>
    rw [exec_commit] at h
    obtain h | ⟨ha, -, -, rfl⟩ | ⟨ha, -, hc, rfl⟩ := runCommand_next h
    · exact .inl h
    · exact .inr (.inl ⟨ha, _, rfl⟩)
    · exact .inr (.inr (.inr (.inr (.inr (.inl ⟨ha, hc, rfl, rfl⟩)))))
  | txb b =>
    rw [exec_txb] at h
    obtain h | ⟨ha, -, -, rfl⟩ | ⟨ha, -, hc, rfl⟩ := runCommand_next h
    · exact .inl h
    · exact .inr (.inl ⟨ha, _, rfl⟩)
    · exact .inr (.inr (.inr (.inr (.inr (.inr ⟨ha, hc, b, rfl, rfl⟩)))))

end Sys2Proof.Machine
end

