-- ==== Sys2Proof/Laws/PerInstr.lean ====
section
/-! SUPPORT. Per command: the fields of its encoding are those of its row of R52. -/

namespace Sys2Proof.Laws.EncodeFields

/-- The three fields of a command's word are its opcode and its two operand words (R50, R52). -/
def Statement (i : Instr) : Prop :=
  opField (encode i) = opcode i ∧ aField (encode i) = operandA i ∧ bField (encode i) = operandB i

theorem extract : Statement .extract := by simp [Statement, encode]
theorem takeover : Statement .takeover := by simp [Statement, encode]
theorem setcb (clockHz baud : Operand) : Statement (.setcb clockHz baud) := by simp [Statement, encode]
theorem setsb (value : Byte) : Statement (.setsb value) := by simp [Statement, encode]
theorem setcs (value : Byte) : Statement (.setcs value) := by simp [Statement, encode]
theorem setmd (value : Byte) : Statement (.setmd value) := by simp [Statement, encode]
theorem commit : Statement .commit := by simp [Statement, encode]
theorem txb (byte : Byte) : Statement (.txb byte) := by simp [Statement, encode]

end Sys2Proof.Laws.EncodeFields
end

