-- ==== Sys2Proof/Laws/Step.lean ====
section
/-! SUPPORT. What one step can do, said once (R22, R85, R95). -/

namespace Sys2Proof.Machine

/-- The reset input asserted: the reset state (R95). -/
theorem step_reset {s : State} (h : s.resetAsserted = true) : step s = .next s.sampled.hardReset := by
  simp [step, stepWithReset, h]

/-- A fatal halt: nothing but the sample of the reset input (R86). -/
theorem step_halted {s : State} (hr : s.resetAsserted = false) (hh : s.halt.isSome = true) : step s = .next s.sampled := by
  simp [step, stepWithReset, microStep, State.halted, hr, hh]

/-- A command in progress: its next micro-step (R22). -/
theorem step_busy {s : State} (hr : s.resetAsserted = false) (hh : s.halt = none) (hs : s.seq ≠ .idle) :
    step s = .next (advance s.sampled) := by
  simp [step, stepWithReset, microStep, State.halted, hr, hh, hs]

/-- No command in progress and no halt: the command port (R22). -/
theorem step_accepting {s : State} (hr : s.resetAsserted = false) (hh : s.halt = none) (hs : s.seq = .idle) :
    step s = acceptCommand s.sampled := by
  simp [step, stepWithReset, microStep, State.halted, hr, hh, hs]

/-- No command presented: the block waits. -/
theorem acceptCommand_nil {s : State} (h : s.inp.cmds = []) : acceptCommand s = .next s := by
  simp [acceptCommand, h]

/-- A legal word presented: its command runs. -/
theorem acceptCommand_ok {s : State} {w : CommandWord} {rest : List CommandWord} {i : Instr}
    (h : s.inp.cmds = w :: rest) (hd : decode w = .ok i) : acceptCommand s = exec i s.taking := by
  simp [acceptCommand, h, hd]

/-- A reserved word presented: refused (R56). -/
theorem acceptCommand_reserved {s : State} {w : CommandWord} {rest : List CommandWord} {why : Reserved}
    (h : s.inp.cmds = w :: rest) (hd : decode w = .error why) : acceptCommand s = .refused (.reservedWord why) := by
  simp [acceptCommand, h, hd]

/-- Everything a step can do with a next state. -/
theorem step_next {s t : State} (h : step s = .next t) :
    (s.resetAsserted = true ∧ t = s.sampled.hardReset) ∨
    (s.resetAsserted = false ∧ s.halt.isSome = true ∧ t = s.sampled) ∨
    (s.resetAsserted = false ∧ s.halt = none ∧ s.seq = .idle ∧ s.inp.cmds = [] ∧ t = s.sampled) ∨
    (s.resetAsserted = false ∧ s.halt = none ∧ s.seq = .idle ∧
      ∃ w rest i, s.inp.cmds = w :: rest ∧ decode w = .ok i ∧ exec i s.sampled.taking = .next t) ∨
    (s.resetAsserted = false ∧ s.halt = none ∧ ∃ k, s.seq = .commit k ∧ t = commitStep k s.sampled) ∨
    (s.resetAsserted = false ∧ s.halt = none ∧ ∃ b, s.seq = .txPoll b ∧ t = txPollStep b s.sampled) ∨
    (s.resetAsserted = false ∧ s.halt = none ∧ ∃ b, s.seq = .txWrite b ∧ t = txWriteStep b s.sampled) := by
  cases hr : s.resetAsserted with
  | true =>
    rw [step_reset hr] at h
    simp_all
  | false =>
    cases hh : s.halt with
    | some c =>
      rw [step_halted hr (by simp [hh])] at h
      simp_all
    | none =>
      by_cases hs : s.seq = .idle
      · rw [step_accepting hr hh hs] at h
        cases hc : s.inp.cmds with
        | nil =>
          rw [acceptCommand_nil (by simpa using hc)] at h
          simp_all
        | cons w rest =>
          cases hd : decode w with
          | ok i =>
            rw [acceptCommand_ok (by simpa using hc) hd] at h
            simp_all
          | error why =>
            rw [acceptCommand_reserved (by simpa using hc) hd] at h
            simp at h
      · rw [step_busy hr hh hs] at h
        cases hq : s.seq <;> simp_all [advance]

/-- Presenting a word leaves a block that accepts commands as it is but for the port. -/
theorem withFetchWord_of_accepts {s : State} (nbits w : Nat) (hr : s.resetAsserted = false) (hh : s.halt = none)
    (hs : s.seq = .idle) :
    s.withFetchWord nbits w =
      s.setInp { s.inp with cmds := BitVec.ofNat 72 (w % 2 ^ nbits) :: s.inp.cmds } := by
  cases s
  simp_all [State.withFetchWord, State.setInp]

end Sys2Proof.Machine
end

