-- ==== Sys2Proof/Laws/Run.lean ====
section
/-! SUPPORT. The small lemmas of the terms in Safety: parameters, several steps, the peripheral's coming answers, and what
one more event adds to a history. -/

namespace Sys2Proof

/-- The parameters at reset are ones R6 admits. -/
theorem Config.params_wf : Config.params.wf = true := by
  unfold Config.params
  simp only
  split
  · assumption
  · decide

/-- Different registers have different addresses (R6, D5). -/
theorem Params.addr_ne {p : Params} (h : p.wf = true) {q r : Reg} (hqr : q ≠ r) : p.addr q ≠ p.addr r := by
  simp [Params.wf] at h
  cases q <;> cases r <;> simp only [Params.addr, ne_eq, not_true_eq_false] at hqr ⊢ <;> tauto

namespace Machine

/-- While the reset input stays unasserted it is not asserted at this step, nor after it. -/
theorem noReset_step {s : State} (h : s.noReset = true) : s.resetAsserted = false ∧ s.sampled.noReset = true := by
  cases hl : s.inp.reset <;> simp_all [State.noReset, State.resetAsserted]

/-- Steps compose. -/
theorem steps_add (m n : Nat) : ∀ {s t : State}, steps m s = .next t → steps (m + n) s = steps n t := by
  induction m with
  | zero =>
    intro s t h
    simp only [steps, Host.Outcome.next.injEq] at h
    simp [h]
  | succ m ih =>
    intro s t h
    rw [show m + 1 + n = (m + n) + 1 by omega, steps]
    rw [steps] at h
    cases hs : step s <;> simp [hs] at h ⊢
    exact ih h

/-- The next answer is the first of those to come (R41). -/
theorem nextDraw_eq (s : State) : s.nextDraw = s.drawAt 0 := by
  unfold State.nextDraw State.drawAt
  cases s.inp.status <;> simp

/-- Using up an answer moves the others one forward (R41). -/
theorem drawAt_dropDraw (s : State) (n : Nat) : s.dropDraw.drawAt n = s.drawAt (n + 1) := by
  unfold State.dropDraw State.drawAt
  cases h : s.inp.status with
  | nil =>
    simp only [State.setInp_inp, List.getElem?_nil, List.length_nil, h]
    congr 1
    omega
  | cons v rest => simp

/-- What an address holds after one more event (R42). -/
theorem lastWrite_append (a : Byte) (bus : List BusEvent) (e : BusEvent) :
    lastWrite a (bus ++ [e]) = e.store a (lastWrite a bus) := by
  simp [lastWrite]

/-- The bytes put out after one more event (R24 (b)). -/
theorem dataWrites_append (hw : Params) (bus : List BusEvent) (e : BusEvent) :
    dataWrites hw (bus ++ [e]) = dataWrites hw bus ++ (e.output hw).toList := by
  simp only [dataWrites, List.filterMap_append, List.filterMap_cons, List.filterMap_nil]
  cases e.output hw <;> rfl

/-- The place after one more event (R76). -/
theorem txPlace_append (hw : Params) (events : List BusEvent) (e : BusEvent) :
    txPlace hw (events ++ [e]) = (txPlace hw events).bind fun p => p.after hw e := by
  simp [txPlace, List.foldlM_append]

end Machine

end Sys2Proof
end

