-- ==== Sys2Proof/Tests/Slice0.lean ====
section
/-! SUPPORT. Tests of the model on single steps, with expected values from 95_test_vectors.md and the rules, and for each
statement with hypotheses a state and operands that meet them. READY_POS = 5 and the addresses are the example values of R6. -/

namespace Sys2Proof.Tests

open Sys2Proof Sys2Proof.Machine

/-! ### Helpers -/

/-- The reset state of a block with the example parameters. -/
def fresh : State := State.resetWith Config.exampleParams Inputs.none

/-- TAKEN = 1, Unconfigured. -/
def owned : State := { fresh with taken := true }

/-- TAKEN = 1, Initialized, no register written. -/
def driving : State := { owned with phase := .initialized }

/-- The answers of the peripheral to come. -/
def State.answering (s : State) (answers : List Byte) : State := { s with inp := { s.inp with status := answers } }

/-- The words the host will present. -/
def State.presented (s : State) (words : List CommandWord) : State := { s with inp := { s.inp with cmds := words } }

/-- The levels of the reset input to come. -/
def State.resetLine (s : State) (levels : List Bool) : State := { s with inp := { s.inp with reset := levels } }

/-- A field of the next state, if there is one. -/
def look {α : Type} (f : State → α) : Host.Outcome State Fault Refusal → Option α
  | .next t => some (f t)
  | .fault _ => none
  | .refused _ => none

/-- Whether a step refuses, and why. -/
def refusal : Host.Outcome State Fault Refusal → Option Refusal
  | .next _ => none
  | .fault _ => none
  | .refused r => some r

/-! ### WellFormed: for each check an ill-formed term (R56 (c), (d)) -/

theorem test_ill_formed_stop : (Instr.setsb 4).wellFormed = false := by decide
theorem test_ill_formed_chsz : (Instr.setcs 8).wellFormed = false := by decide
theorem test_ill_formed_mode : (Instr.setmd 0x20).wellFormed = false := by decide
theorem test_ill_formed_baud : (Instr.setcb 16000000 0).wellFormed = false := by decide
theorem test_well_formed_zero_clock : (Instr.setcb 0 1).wellFormed = true := by decide

/-! ### Decode: words written out from R52 (OP, A, B bit by bit); 95_test_vectors.md 2.1 -/

theorem test_decode_extract :
    decode 0b000000010000000000000000000000000000000000000000000000000000000000000000 = .ok .extract := by decide
theorem test_decode_takeover :
    decode 0b000000100000000000000000000000000000000000000000000000000000000000000000 = .ok .takeover := by decide
theorem test_decode_setcb :
    decode 0b000100000000000011110100001001000000000000000000000000000010010110000000 = .ok (.setcb 16000000 9600) := by
  decide
theorem test_decode_setsb :
    decode 0b000100010000000000000000000000000000000000000000000000000000000000001000 = .ok (.setsb 8) := by decide
theorem test_decode_setcs :
    decode 0b000100100000000000000000000000000000000000000000000000000000000000000110 = .ok (.setcs 6) := by decide
theorem test_decode_setmd :
    decode 0b000100110000000000000000000000000000000000000000000000000000000000011000 = .ok (.setmd 24) := by decide
theorem test_decode_commit :
    decode 0b000111110000000000000000000000000000000000000000000000000000000000000000 = .ok .commit := by decide
theorem test_decode_txb :
    decode 0b001000000000000000000000000000000000000000000000000000000000000001000001 = .ok (.txb 0x41) := by decide
theorem test_decode_reserved :
    decode 0x010000000000000001 = .error .operandB ∧ decode 0x010000000100000000 = .error .operandA ∧
    decode 0x100000F42400000000 = .error .zeroBaud ∧ decode 0x110000000000000004 = .error .stopValue ∧
    decode 0x110000000000000108 = .error .operandB ∧ decode 0x120000000000000001 = .error .chszValue ∧
    decode 0x13000000000000000A = .error .modeValue ∧ decode 0x200000000000000141 = .error .operandB ∧
    decode 0x200000000100000041 = .error .operandA ∧ decode 0x000000000000000000 = .error .opcode ∧
    decode 0x030000000000000000 = .error .opcode ∧ decode 0xFF0000000000000000 = .error .opcode := by decide

/-- 95_test_vectors.md 2.8: the words of TXS "AB". -/
theorem test_txs_words : txsWords [0x41, 0x42] = [0x200000000000000041, 0x200000000000000042] := by decide

theorem test_table_word : decodeTableWord 72 0x1F0000000000000000 = some .commit ∧ decodeTableWord 72 0 = none := by decide

/-- The first command after reset runs: R96, item 1. -/
theorem test_first_step_from_reset :
    look State.taken (step (State.reset.withFetchWord 72 0x010000000000000000)) = some true := by decide

/-! ### One step each -/

/-- 2.2: reset state, EXTRACT. -/
theorem test_extract : look (fun t => (t.taken, t.rsp, t.bus)) (exec .extract fresh) = some (true, [.ok], []) := by decide

/-- 2.2: a second EXTRACT. -/
theorem test_extract_twice :
    look (fun t => (t.halt, t.rsp, t.seq)) (exec .extract driving) = some (some .doubleExtraction, [], .idle) := by decide

/-- 2.2: TAKEOVER in any state. -/
theorem test_takeover : refusal (exec .takeover driving) = some .takeover := by decide

/-- 2.3: row 65551, 1 (the largest divisor). -/
theorem test_setcb_largest :
    look (fun t => (t.cfg.clk, t.cfg.div, t.rsp)) (exec (.setcb 65551 1) owned) = some (65551, 4095, [.ok]) := by decide

/-- 2.3: row 4294967295, 268435456: the product is not wrapped. -/
theorem test_setcb_not_wrapped :
    look (fun t => (t.cfg.clk, t.cfg.div, t.rsp)) (exec (.setcb 4294967295 268435456) owned) =
      some (16000000, 103, [.incompatibleSettings]) := by decide

/-- 2.3: the boundary rows of the calculator. -/
theorem test_divisor_boundaries :
    divisor 16000000 9600 = some 103 ∧ divisor 65552 1 = none ∧ divisor 16 1 = some 0 ∧ divisor 15 1 = none ∧
    divisor 0 1 = none ∧ divisor 4294967295 4294967295 = none ∧ divisor 16000000 300 = some 3332 := by decide

/-- 2.4: SETSB Two; SETSB Two in Initialized. -/
theorem test_setsb : look (fun t => (t.cfg.stop, t.halt)) (exec (.setsb 8) owned) = some (8, none) := by decide
theorem test_setsb_misuse :
    look (fun t => (t.cfg.stop, t.halt)) (exec (.setsb 8) driving) = some (0, some .misuse) := by decide

/-- 2.4: SETCS SixBit; with TAKEN = 0. -/
theorem test_setcs : look (fun t => (t.cfg.chsz, t.rsp)) (exec (.setcs 2) owned) = some (2, [.ok]) := by decide
theorem test_setcs_misuse : look (fun t => (t.halt, t.rsp)) (exec (.setcs 0) fresh) = some (some .misuse, []) := by decide

/-- 2.4: SETMD Receive. -/
theorem test_setmd : look (fun t => (t.cfg.mode, t.rsp)) (exec (.setmd 16) owned) = some (16, [.ok]) := by decide

/-- 2.5: row 3332, 8, 2, 16. -/
theorem test_commit_values :
    List.ofFn (commitValue { clk := 0, div := 3332, stop := 8, chsz := 2, mode := 16 }) = [0x04, 0x0D, 0x0A, 0x10] := by
  decide

/-- 2.5: COMMIT with TAKEN = 0. -/
theorem test_commit_misuse : look (fun t => (t.halt, t.bus)) (exec .commit fresh) = some (some .misuse, []) := by decide

/-- R71: the fourth micro-step. -/
theorem test_commit_last_step :
    look (fun t => (t.phase, t.seq, t.bus, t.mem)) (step { owned with seq := .commit 3, cfg := { owned.cfg with mode := 24 } }) =
      some (.initialized, .idle, [.wr 0xC1 0x18], [(0xC1, 0x18)]) := by decide

/-- 2.6: the two ready tests with READY_POS = 5. -/
theorem test_ready_mask :
    [0x00, 0x1F, 0x20, 0x3F, 0x40, 0xDF, 0x80, 0xE0].map (ready Config.exampleParams) =
      [false, false, true, true, false, false, false, true] := by decide
theorem test_ready_threshold :
    [0x00, 0x1F, 0x20, 0x3F, 0x40, 0xDF, 0x80, 0xE0].map (ready { Config.exampleParams with readyTest := .threshold }) =
      [false, false, true, true, true, true, true, true] := by decide

/-- 2.7: TXB in Unconfigured. -/
theorem test_txb_misuse : look (fun t => (t.halt, t.bus)) (exec (.txb 0x41) owned) = some (some .misuse, []) := by decide

/-- 2.7: a poll that reads 0x40 is not ready; one that reads 0x60 is. -/
theorem test_txb_poll :
    look (fun t => (t.seq, t.bus)) (step (State.answering { driving with seq := .txPoll 0 } [0x40, 0x60])) =
      some (.txPoll 0, [.rd 0xC0 0x40]) ∧
    look (fun t => (t.seq, t.bus)) (step (State.answering { driving with seq := .txPoll 0 } [0x60])) =
      some (.txWrite 0, [.rd 0xC0 0x60]) := by decide

/-- 2.7: the write of DATA, byte not masked by FiveBit. -/
theorem test_txb_write :
    look (fun t => (t.seq, t.tx, t.rsp, t.rf .data)) (step { driving with seq := .txWrite 0x9C }) =
      some (.idle, [0x9C], [.ok], some 0x9C) := by decide

/-- 2.9: HALT = 1: not accepted. -/
theorem test_halted_not_accepted :
    look (fun t => (t.taken, t.inp.cmds))
      (step (State.presented { fresh with halt := some .misuse } [0x010000000000000000])) =
      some (false, [0x010000000000000000]) := by decide

/-- 2.10: reset while TXB polls, and in a fatal halt. -/
theorem test_reset_while_polling :
    look (fun t => (t.taken, t.phase, t.seq, t.bus))
      (step (State.resetLine { driving with seq := .txPoll 0x58, bus := [.rd 0xC0 0] } [true])) =
      some (false, .unconfigured, .idle, []) := by decide
theorem test_reset_from_halt :
    look (fun t => (t.halt, t.taken)) (step (State.resetLine { owned with halt := some .doubleExtraction } [true])) =
      some (none, false) := by decide

/-- A write keeps the register space sorted, and replaces the value an address holds. -/
theorem test_memory_write :
    (Memory.write (Memory.write (Memory.write [] 0xC4 1) 0xC1 2) 0xC4 3) = [(0xC1, 2), (0xC4, 3)] := by decide

/-! ### Witnesses: for each statement with hypotheses, a state and operands that meet them -/

/-- The block right after COMMIT of 103, Two, EightBit, Transmit (P1). -/
def committed : State :=
  { driving with
    cfg := { clk := 16000000, div := 103, stop := 8, chsz := 6, mode := 8 }
    mem := [(0xC1, 0x08), (0xC2, 0x0E), (0xC4, 0x67), (0xC5, 0x00)]
    bus := [.wr 0xC4 0x67, .wr 0xC5 0x00, .wr 0xC2 0x0E, .wr 0xC1 0x08] }

theorem committed_inv : Inv committed where
  params := by decide
  memory := by decide
  populated := by
    intro a v h
    simp only [committed, Memory.read] at h
    split_ifs at h with h1 h2 h3 h4
    · exact ⟨.modereg, by decide, h1.symm⟩
    · exact ⟨.frame, by decide, h2.symm⟩
    · exact ⟨.baudl, by decide, h3.symm⟩
    · exact ⟨.baudh, by decide, h4.symm⟩
  stop := by decide
  chsz := by decide
  mode := by decide
  owner := fun _ => rfl
  commit := fun _ h => nomatch h
  poll := fun _ h => nomatch h
  write := fun _ h => nomatch h
  output := by decide

theorem committed_history : HistoryInv committed where
  storage := by intro r; cases r <;> decide
  before := fun h => nomatch h
  during := fun _ h => nomatch h
  after := by
    intro _
    refine ⟨[], .between, by decide, by decide, fun _ => rfl, ?_, ?_⟩ <;> intro _ h <;> nomatch h

theorem witness_DecodeOfEncodeIsIdentity : (Instr.setmd 24).wellFormed = true ∧ (Instr.setcb 0 1).wellFormed = true := by
  decide

theorem witness_EncodeOfDecodeIsIdentity : decode 0x2000000000000000FF = .ok (.txb 0xFF) := by decide

theorem witness_ReservedWordsAreRefused :
    LegalWord 0x10FFFFFFFF00000001 ∧ LegalWord 0x2000000000000000FF ∧ ¬ LegalWord 0x100000000000000000 ∧
    ¬ LegalWord 0x200000000000000100 ∧
    (let s := State.presented fresh [0x200000000000000100]
     s.resetAsserted = false ∧ s.halt = none ∧ s.seq = .idle ∧ s.inp.cmds = 0x200000000000000100 :: []) := by
  refine ⟨?_, ?_, ?_, ?_, by decide⟩ <;> unfold LegalWord <;> decide

theorem witness_ReservedWordsByKind :
    opField 0x030000000000000000 ∉ [0x01, 0x02, 0x10, 0x11, 0x12, 0x13, 0x1F, 0x20] ∧
    opField 0x210000000000000000 ∉ [0x01, 0x02, 0x10, 0x11, 0x12, 0x13, 0x1F, 0x20] ∧
    (opField 0x1F0000000100000001 ∈ [0x01, 0x02, 0x1F, 0x11, 0x12, 0x13, 0x20] ∧ aField 0x1F0000000100000001 ≠ 0) ∧
    (opField 0x010000000000000001 ∈ [0x01, 0x02, 0x1F] ∧ aField 0x010000000000000001 = 0 ∧
      bField 0x010000000000000001 ≠ 0) ∧
    (opField 0x200000000000000100 ∈ [0x11, 0x12, 0x13, 0x20] ∧ aField 0x200000000000000100 = 0 ∧
      bField 0x200000000000000100 >>> 8 ≠ 0) ∧
    (7 : Byte) ∉ [0, 8] ∧ (8 : Byte) ∉ [0, 2, 4, 6] ∧ (0x20 : Byte) ∉ [0, 8, 16, 24] := by decide

/-- Also of `TakeoverIsRefused` with the word of TAKEOVER. -/
theorem witness_StepRunsPresentedCommand :
    let s := State.presented fresh [0x010000000000000000, 0x020000000000000000]
    s.resetAsserted = false ∧ s.halt = none ∧ s.seq = .idle ∧
      s.inp.cmds = 0x010000000000000000 :: [0x020000000000000000] ∧ decode 0x010000000000000000 = .ok .extract := by decide

theorem witness_TakeoverIsRefused :
    let s := State.presented driving [0x020000000000000000]
    s.resetAsserted = false ∧ s.halt = none ∧ s.seq = .idle ∧ s.inp.cmds = 0x020000000000000000 :: [] := by decide

theorem witness_BusyBlockAcceptsNothing :
    let s := State.presented { owned with seq := .commit 0 } [0x010000000000000000]
    s.seq ≠ .idle ∧ Instr.extract ≠ .takeover ∧ s.resetAsserted = false ∧
      look (fun t => t.seq) (step s) = some (.commit 1) := by decide

theorem witness_IdleBlockWaits :
    fresh.resetAsserted = false ∧ fresh.halt = none ∧ fresh.seq = .idle ∧ fresh.inp.cmds = [] := by decide

/-- One witness for each of the three cases: no access, a read, a write. -/
theorem witness_OneAccessPerMicroStep :
    (fresh.resetAsserted = false ∧ look State.bus (step fresh) = some []) ∧
    (let s := State.answering { driving with seq := .txPoll 1 } [0]
     s.resetAsserted = false ∧ look State.bus (step s) = some [.rd 0xC0 0]) ∧
    (let s := { driving with seq := .txWrite 1 }
     s.resetAsserted = false ∧ look State.bus (step s) = some [.wr 0xC6 1]) := by decide

theorem witness_ResetStateValues : look State.halt (exec .extract fresh) = some none := by decide

theorem witness_ResetIsTheOnlyWayOut :
    (State.resetLine driving [true]).resetAsserted = true ∧
    (driving.resetAsserted = false ∧ driving.taken = true ∧ driving.phase = .initialized ∧
      look State.taken (step driving) = some true) ∧
    (let s := { owned with halt := some .misuse }
     s.resetAsserted = false ∧ s.halt = some .misuse ∧ look State.halt (step s) = some (some .misuse)) ∧
    (let s := State.answering { driving with seq := .txPoll 1 } [0x40]
     s.resetAsserted = false ∧ s.seq = .txPoll 1 ∧ ready s.hw s.nextDraw = false) := by decide

theorem witness_ExtractSucceedsOnce :
    (fresh.halt = none ∧ fresh.seq = .idle ∧ fresh.taken = false) ∧
    (driving.halt = none ∧ driving.seq = .idle ∧ driving.taken = true) ∧
    (look State.halt (exec .extract fresh) = some none) ∧
    (driving.resetAsserted = false ∧ look State.taken (step driving) = some true) ∧
    (let s := { owned with halt := some .misuse }
     s.halt.isSome = true) := by decide

/-- The boundary values of the two clauses: 16 and 65551 are stored, 15 and 65552 are not. Also of `DivisorIsExactFloor`. -/
theorem witness_SetcbStoresOrRejects :
    owned.halt = none ∧ owned.seq = .idle ∧ owned.taken = true ∧ owned.phase = .unconfigured ∧ (1 : Operand) ≠ 0 ∧
    (16 * (1 : Operand).toNat ≤ (16 : Operand).toNat ∧ (16 : Operand).toNat / (16 * (1 : Operand).toNat) - 1 ≤ 4095) ∧
    (65551 : Operand).toNat / (16 * (1 : Operand).toNat) - 1 ≤ 4095 ∧
    16 * (1 : Operand).toNat > (15 : Operand).toNat ∧
    (65552 : Operand).toNat / (16 * (1 : Operand).toNat) - 1 > 4095 := by decide

theorem witness_DivisorIsExactFloor : (1 : Operand) ≠ 0 ∧ divisor 65551 1 = some 4095 ∧ divisor 16 1 = some 0 := by decide

theorem witness_SelectorSettersStore :
    owned.halt = none ∧ owned.seq = .idle ∧ owned.taken = true ∧ owned.phase = .unconfigured ∧
    (8 : Byte) ∈ [0, 8] ∧ (6 : Byte) ∈ [0, 2, 4, 6] ∧ (24 : Byte) ∈ [0, 8, 16, 24] := by decide

theorem witness_IllFormedCommandsAreRefused :
    driving.halt = none ∧ driving.seq = .idle ∧
    (9 : Byte) ∉ [0, 8] ∧ (7 : Byte) ∉ [0, 2, 4, 6] ∧ (25 : Byte) ∉ [0, 8, 16, 24] := by decide

/-- A pair of different kinds with a failing SETCB, and a pair of the same kind whose second succeeds. -/
theorem witness_SettersCommuteOnDisjointFields :
    owned.halt = none ∧ owned.seq = .idle ∧ owned.taken = true ∧ owned.phase = .unconfigured ∧
    (Instr.setcb 16000000 244).wellFormed = true ∧ (Instr.setmd 8).wellFormed = true ∧
    (Instr.setcb 16000000 9600).wellFormed = true ∧
    setterKind (.setcb 16000000 244) ≠ setterKind (.setmd 8) ∧
    (setterKind (.setcb 16000000 244)).isSome = true ∧ (setterKind (.setmd 8)).isSome = true ∧
    setterKind (.setcb 16000000 244) = setterKind (.setcb 16000000 9600) ∧
    look State.rsp (exec (.setcb 16000000 9600) owned) = some (owned.rsp ++ [.ok]) := by decide

theorem witness_CommitWritesConfigurationInOrder :
    (fresh.halt = none ∧ fresh.seq = .idle ∧ fresh.taken = false) ∧
    (driving.halt = none ∧ driving.seq = .idle ∧ driving.phase = .initialized) ∧
    owned.hw.wf = true ∧ owned.noReset = true ∧ owned.halt = none ∧ owned.seq = .idle ∧ owned.taken = true ∧
    owned.phase = .unconfigured := by decide

/-- Micro-steps 1 and 4. -/
theorem witness_CommitMicroStepFrame :
    (let s := { owned with seq := .commit 0 }
     s.resetAsserted = false ∧ s.halt = none ∧ s.seq = .commit 0 ∧ s.hw.addr (commitReg 0) ≠ s.hw.addr .data) ∧
    (let s := { owned with seq := .commit 3 }
     s.resetAsserted = false ∧ s.halt = none ∧ s.seq = .commit 3 ∧ s.hw.addr (commitReg 3) ≠ s.hw.addr .data) := by decide

theorem witness_CommitValuesSplitAndCombine :
    committed.cfg.stop ∈ [0, 8] ∧ committed.cfg.chsz ∈ [0, 2, 4, 6] := by decide

/-- TXB before COMMIT, and a setter after it. -/
theorem witness_MisuseIsFatal :
    (owned.halt = none ∧ owned.seq = .idle ∧ (Instr.txb 0x55).wellFormed = true ∧ Instr.txb 0x55 ≠ .extract ∧
      Instr.txb 0x55 ≠ .takeover ∧ ¬ (owned.taken = true ∧ owned.phase = .initialized)) ∧
    (driving.halt = none ∧ driving.seq = .idle ∧ (Instr.setcb 15 1).wellFormed = true ∧ Instr.setcb 15 1 ≠ .extract ∧
      Instr.setcb 15 1 ≠ .takeover ∧ (∀ b, Instr.setcb 15 1 ≠ .txb b) ∧
      ¬ (driving.taken = true ∧ driving.phase = .unconfigured)) := by
  refine ⟨by decide, by decide, by decide, by decide, by decide, by decide, ?_, by decide⟩
  intro b h
  nomatch h

/-- One accepting state per column of the table, with a command of each verdict. -/
theorem witness_LifecycleTableHolds :
    (fresh.halt = none ∧ fresh.seq = .idle ∧ ¬ (fresh.taken = false ∧ fresh.phase = .initialized) ∧
      lifecycleTable .extract fresh.taken fresh.phase = .ok ∧ lifecycleTable .commit fresh.taken fresh.phase = .misuse) ∧
    (owned.halt = none ∧ owned.seq = .idle ∧ lifecycleTable .extract owned.taken owned.phase = .doubleExtraction ∧
      lifecycleTable (.setsb 8) owned.taken owned.phase = .ok) ∧
    (driving.halt = none ∧ driving.seq = .idle ∧ lifecycleTable (.txb 0) driving.taken driving.phase = .ok ∧
      lifecycleTable .takeover driving.taken driving.phase = .refused) := by decide

theorem witness_HaltedBlockDoesNothing :
    let s := { owned with halt := some .doubleExtraction }
    s.halt.isSome = true ∧ s.resetAsserted = false ∧ s.noReset = true ∧ Instr.commit ≠ .takeover := by decide

theorem witness_ReadyPredicates :
    ready { Config.exampleParams with readyTest := .mask } 0x40 ≠
      ready { Config.exampleParams with readyTest := .threshold } 0x40 ∧
    ready { Config.exampleParams with readyTest := .mask } 0x20 = true ∧
    ({ Config.exampleParams with readyPos := 7 } : Params).readyPos = 7 := by decide

/-- A step that ends a command, and one that raises a fatal error. -/
theorem witness_ResponsesOnCompletionOnly :
    (let s := { driving with seq := .txWrite 1 }
     s.resetAsserted = false ∧ s.seq ≠ .idle ∧ s.halt = none ∧ look State.seq (step s) = some .idle) ∧
    (let s := State.presented fresh [0x1F0000000000000000]
     s.resetAsserted = false ∧ s.halt = none ∧ look State.halt (step s) = some (some .misuse)) := by decide

theorem witness_CommandAcceptanceFrame :
    look State.taken (exec .extract fresh) = some true ∧ look State.seq (exec .commit owned) = some (.commit 0) ∧
    look State.halt (exec (.txb 1) owned) = some (some .misuse) := by decide

/-- The write of DATA in the block right after COMMIT. -/
theorem witness_ConfigurationFrozenAfterCommit :
    Inv committed ∧ committed.phase = .initialized ∧ committed.resetAsserted = false ∧
    look State.phase (step committed) = some .initialized ∧ Reg.frame ≠ .data :=
  ⟨committed_inv, by decide, by decide, by decide, by decide⟩

theorem witness_StoredClockIsNeverUsed :
    look (fun t => t.cfg.clk) (step (State.presented owned [0x110000000000000008])) = some 16000000 := by decide

theorem witness_HistoriesAndRegistersAreNeverRead :
    committed.resetAsserted = false ∧ look State.phase (step committed) = some .initialized := by decide

theorem witness_RegisterReadEffect :
    committed.hw.addr .frame ≠ committed.hw.addr .status ∧ committed.rf .frame = some 0x0E ∧
    (State.answering committed [0x20, 0x00]).inp.status = 0x20 :: [0x00] := by decide

theorem witness_TxbPollsThenWrites :
    (driving.halt = none ∧ driving.seq = .idle ∧ driving.taken = true ∧ driving.phase = .initialized) ∧
    (let s := { driving with seq := .txPoll 1 }
     s.resetAsserted = false ∧ s.halt = none ∧ s.seq = .txPoll 1) ∧
    (let s := { driving with seq := .txWrite 1 }
     s.resetAsserted = false ∧ s.halt = none ∧ s.seq = .txWrite 1) := by decide

theorem witness_TxbMicroStepFrame :
    (let s := State.answering { driving with seq := .txPoll 1 } [0]
     s.resetAsserted = false ∧ s.halt = none ∧ s.seq = .txPoll 1 ∧ look State.tx (step s) = some []) ∧
    (let s := { driving with seq := .txWrite 1 }
     s.resetAsserted = false ∧ s.halt = none ∧ s.seq = .txWrite 1 ∧ look State.tx (step s) = some [1]) := by decide

/-- 2.7: draws 0x00, 0x00, 0x20: n = 2. Also of `TxbPollsWithoutBound`. -/
theorem witness_TxbCompletesWhenPeripheralReady :
    let s := State.answering { driving with seq := .txPoll 0x41 } [0x00, 0x00, 0x20]
    s.noReset = true ∧ s.halt = none ∧ s.seq = .txPoll 0x41 ∧ (∀ m, m < 2 → ready s.hw (s.drawAt m) = false) ∧
      ready s.hw (s.drawAt 2) = true := by decide

theorem witness_TxbPollsWithoutBound :
    let s := State.answering { driving with seq := .txPoll 0x58 } [0x00, 0x40, 0xDF, 0x00]
    s.noReset = true ∧ s.halt = none ∧ s.seq = .txPoll 0x58 ∧ ∀ m, m < 4 → ready s.hw (s.drawAt m) = false := by decide

/-- 2.8: TXS "AB" with draws 0x00, 0x20, 0x20, and a further word of the host. -/
theorem witness_TxsSendsBytesInOrder :
    let s := State.answering (State.presented driving (txsWords [0x41, 0x42] ++ [0x010000000000000000])) [0x00, 0x20, 0x20]
    s.noReset = true ∧ s.halt = none ∧ s.seq = .idle ∧ s.taken = true ∧ s.phase = .initialized ∧
      s.inp.cmds = txsWords [0x41, 0x42] ++ [0x010000000000000000] ∧ PeripheralReadyTimes [0x41, 0x42].length s :=
  ⟨by decide, by decide, by decide, by decide, by decide, by decide, 3, by decide⟩

/-- Also of `ResetStateHasHistoryInvariant`. -/
theorem witness_ResetStateHasInvariant : Config.exampleParams.wf = true := by decide

theorem witness_StepKeepsInvariant :
    Inv committed ∧
      look (fun t => (t.seq, t.phase)) (step (State.presented committed [0x200000000000000041])) =
        some (.txPoll 0x41, .initialized) ∧
      look (fun t => t.seq) (step committed) = some .idle :=
  ⟨committed_inv, by decide, by decide⟩

theorem witness_StepKeepsHistoryInvariant :
    Inv committed ∧ HistoryInv committed ∧ look (fun t => t.seq) (step committed) = some .idle :=
  ⟨committed_inv, committed_history, by decide⟩

theorem witness_InitializedRegistersReflectConfiguration :
    Inv committed ∧ HistoryInv committed ∧ committed.phase = .initialized :=
  ⟨committed_inv, committed_history, by decide⟩

end Sys2Proof.Tests
end

/-! The scope of one step: which command it runs (R22), and the register accesses it makes (R2 (b), R24, R39 (a)). -/

namespace Sys2Proof.Machine

/-! ### What the operations do to the parameters and the two histories -/

@[simp] theorem State.memRead_hw (s : State) (r : Reg) : (s.memRead r).hw = s.hw := by
  obtain ⟨i, h, -, -⟩ := s.memRead_eq r
  simp [h]

@[simp] theorem State.memRead_bus (s : State) (r : Reg) :
    (s.memRead r).bus = s.bus ++ [.rd (s.hw.addr r) (s.readValue r)] := by
  obtain ⟨i, h, -, -⟩ := s.memRead_eq r
  simp [h]

@[simp] theorem State.memRead_tx (s : State) (r : Reg) : (s.memRead r).tx = s.tx := by
  obtain ⟨i, h, -, -⟩ := s.memRead_eq r
  simp [h]

/-- The acceptance of a command makes no register access: COMMIT and TXB make theirs in the micro-steps that follow (R22). -/
theorem exec_hw_bus_tx {i : Instr} {s t : State} (h : exec i s = .next t) :
    t.hw = s.hw ∧ t.bus = s.bus ∧ t.tx = s.tx := by
  obtain ⟨-, rfl⟩ | ⟨-, _, rfl⟩ | ⟨-, -, -, rfl⟩ | ⟨-, -, -, rfl⟩ | ⟨-, -, _, rfl, -⟩ | ⟨-, -, -, rfl⟩ |
    ⟨-, -, _, -, rfl⟩ := exec_next h <;> simp

/-- A micro-step of COMMIT differs from its one register write (R71) only in PHASE, SEQ and the responses. -/
theorem commitStep_hw_bus_tx (k : Fin 4) (s : State) :
    let t := s.memWrite (commitReg k) (commitValue s.cfg k)
    (commitStep k s).hw = t.hw ∧ (commitStep k s).bus = t.bus ∧ (commitStep k s).tx = t.tx := by
  unfold commitStep
  split <;> simp

/-- Taking the sample of the reset input and then the presented word, as one update of the inputs. -/
theorem sampled_taking_eq {s : State} {w : CommandWord} {rest : List CommandWord} (h : s.inp.cmds = w :: rest) :
    s.sampled.taking = s.setInp { s.inp with cmds := rest, reset := s.inp.reset.tail } := by
  simp [State.taking, State.sampled, State.setInp, h]

/-! ### The obligations -/

/-- Settles O10, one case per way a step can go on (`step_next`): a micro-step of COMMIT and the last one of TXB are one
`memWrite`, a poll is one `memRead`, and every other step leaves both histories alone. -/
theorem oneAccessPerMicroStep : Obligations.OneAccessPerMicroStep := by
  intro s t hr h
  obtain ⟨hr', -⟩ | ⟨-, -, rfl⟩ | ⟨-, -, -, -, rfl⟩ | ⟨-, -, -, _, _, i, -, -, he⟩ | ⟨-, -, k, -, rfl⟩ |
    ⟨-, -, b, -, rfl⟩ | ⟨-, -, b, -, rfl⟩ := step_next h
  · simp [hr] at hr'
  · exact ⟨rfl, .inl ⟨rfl, rfl⟩⟩
  · exact ⟨rfl, .inl ⟨rfl, rfl⟩⟩
  · obtain ⟨hhw, hbus, htx⟩ := exec_hw_bus_tx he
    exact ⟨hhw, .inl ⟨hbus, htx⟩⟩
  · obtain ⟨hhw, hbus, htx⟩ := commitStep_hw_bus_tx k s.sampled
    exact ⟨hhw, .inr (.inr ⟨_, _, hbus, htx⟩)⟩
  · exact ⟨s.sampled.memRead_hw .status,
      .inr (.inl ⟨_, _, s.sampled.memRead_bus .status, s.sampled.memRead_tx .status⟩)⟩
  · exact ⟨rfl, .inr (.inr ⟨_, _, rfl, rfl⟩)⟩

/-- Settles O7: the step looks at the command port, and the port runs the command of a legal word. -/
theorem stepRunsPresentedCommand : Obligations.StepRunsPresentedCommand := by
  intro s w rest i hr hh hs hc hd
  rw [step_accepting hr hh hs, acceptCommand_ok (by simpa using hc) hd, sampled_taking_eq hc]
  rfl

end Sys2Proof.Machine

/-! The structural invariant (R12, R20, R22, R24, R26, R88): which updates of State keep it, and from that every step. -/

namespace Sys2Proof.Machine

/-! ### What the micro-steps are -/

/-- The first three micro-steps of COMMIT (R71). -/
theorem commitStep_of_ne {k : Fin 4} (hk : k ≠ 3) (s : State) :
    commitStep k s = (s.memWrite (commitReg k) (commitValue s.cfg k)).setSeq (.commit (k + 1)) :=
  if_neg hk

/-- One poll: its event with the peripheral's next answer, which decides where SEQ goes; nothing else changes (R75, R76). -/
theorem txPollStep_eq (b : Byte) (s : State) :
    ∃ i, txPollStep b s = ((s.setInp i).logBus (.rd (s.hw.addr .status) s.nextDraw)).setSeq
        (if ready s.hw s.nextDraw then .txWrite b else .txPoll b) ∧
      i.cmds = s.inp.cmds ∧ i.reset = s.inp.reset := by
  obtain ⟨i, hi, hc, hr⟩ := s.memRead_eq .status
  exact ⟨i, by rw [txPollStep, hi, State.readValue_status], hc, hr⟩

/-- COMMIT never writes STATUS (R38). -/
theorem commitReg_ne_status (k : Fin 4) : commitReg k ≠ .status := by
  fin_cases k <;> decide

/-! ### The updates that keep `Inv` -/

/-- Where the sequencer may stand at a value: a command in progress needs HALT = 0 and its lifecycle state (R22, R86, R88). -/
def SeqLawful (s : State) : Seq → Prop
  | .idle => True
  | .commit _ => s.halt = none ∧ s.taken = true ∧ s.phase = .unconfigured
  | .txPoll _ | .txWrite _ => s.halt = none ∧ s.taken = true ∧ s.phase = .initialized

/-- The three selectors lie in their domains (R12). -/
def Cfg.legal (c : Cfg) : Prop :=
  legalStop c.stop = true ∧ legalChsz c.chsz = true ∧ legalMode c.mode = true

/-- The three reset selectors of a block R6 admits lie in their domains. -/
theorem params_wf_selectors {p : Params} (h : p.wf = true) :
    legalStop p.resetStop = true ∧ legalChsz p.resetChsz = true ∧ legalMode p.resetMode = true := by
  simp only [Params.wf, Bool.and_eq_true] at h
  obtain ⟨⟨⟨-, hstop⟩, hchsz⟩, hmode⟩ := h
  exact ⟨hstop, hchsz, hmode⟩

namespace Inv

variable {s : State}

theorem legal (h : Inv s) : s.cfg.legal := ⟨h.stop, h.chsz, h.mode⟩

/-- The reset state of every block R6 admits. -/
theorem resetWith {hw : Params} (h : hw.wf = true) (inp : Inputs) : Inv (State.resetWith hw inp) := by
  obtain ⟨hstop, hchsz, hmode⟩ := params_wf_selectors h
  exact
    { params := h
      memory := Memory.wf_nil
      populated := fun a v hv => nomatch hv
      stop := hstop
      chsz := hchsz
      mode := hmode
      owner := fun hp => nomatch hp
      commit := fun _ hq => nomatch hq
      poll := fun _ hq => nomatch hq
      write := fun _ hq => nomatch hq
      output := rfl }

/-- The inputs stand in no clause. -/
theorem setInp (h : Inv s) (i : Inputs) : Inv (s.setInp i) := { h with }

/-- The responses stand in no clause. -/
theorem respond (h : Inv s) (r : Response) : Inv (s.respond r) := { h with }

theorem setCfg (h : Inv s) {c : Cfg} (hc : c.legal) : Inv (s.setCfg c) :=
  have ⟨hstop, hchsz, hmode⟩ := hc
  { h with stop := hstop, chsz := hchsz, mode := hmode }

theorem setSeq (h : Inv s) {q : Seq} (hq : SeqLawful s q) : Inv (s.setSeq q) :=
  { h with
    commit := fun k (hk : q = .commit k) => by subst hk; exact hq
    poll := fun b (hb : q = .txPoll b) => by subst hb; exact hq
    write := fun b (hb : q = .txWrite b) => by subst hb; exact hq }

/-- TAKEN is only ever set, and no clause asks for TAKEN = 0. -/
theorem setTaken (h : Inv s) : Inv (s.setTaken true) :=
  { h with
    owner := fun _ => rfl
    commit := fun k hk => have ⟨hh, _, hp⟩ := h.commit k hk; ⟨hh, rfl, hp⟩
    poll := fun b hb => have ⟨hh, _, hp⟩ := h.poll b hb; ⟨hh, rfl, hp⟩
    write := fun b hb => have ⟨hh, _, hp⟩ := h.write b hb; ⟨hh, rfl, hp⟩ }

/-- A fatal halt leaves no command in progress (R86). -/
theorem raiseFatal (h : Inv s) (c : Cause) : Inv (s.raiseFatal c) :=
  { h with
    commit := fun _ hq => nomatch hq
    poll := fun _ hq => nomatch hq
    write := fun _ hq => nomatch hq }

/-- The end of COMMIT: with no command in progress and TAKEN = 1 the block may become Initialized (R71). -/
theorem setPhase (h : Inv s) (hs : s.seq = .idle) (ht : s.taken = true) (p : Phase) : Inv (s.setPhase p) :=
  { h with
    owner := fun _ => ht
    commit := fun k hk => by simp [hs] at hk
    poll := fun b hb => by simp [hs] at hb
    write := fun b hb => by simp [hs] at hb }

/-- A read puts out no byte. -/
theorem logBus_rd (h : Inv s) (a v : Byte) : Inv (s.logBus (.rd a v)) :=
  { h with output := by simp [dataWrites_append, BusEvent.output, h.output] }

/-- A write of any register but STATUS; TX takes the byte exactly where BUS shows a write of DATA (R24, R31). -/
theorem memWrite (h : Inv s) {r : Reg} (hr : r ≠ .status) (v : Byte) : Inv (s.memWrite r v) :=
  { h with
    memory := Memory.wf_write _ v h.memory
    populated := by
      intro a w hw
      rw [State.memWrite_mem, Memory.read_write] at hw
      split at hw
      next ha => exact ⟨r, hr, ha⟩
      next => exact h.populated a w hw
    output := by
      rw [State.memWrite_tx, State.memWrite_bus, State.memWrite_hw, dataWrites_append, h.output, BusEvent.output]
      split <;> simp }

end Inv

/-! ### Commands, micro-steps and the step -/

theorem exec_keeps_inv {s : State} {i : Instr} {t : State} (h : Inv s) (he : exec i s = .next t) : Inv t := by
  obtain ⟨-, rfl⟩ | ⟨-, c, rfl⟩ | ⟨-, -, -, rfl⟩ | ⟨-, -, -, rfl⟩ | ⟨-, -, c, rfl, hc⟩ | ⟨ha, hcfg, -, rfl⟩ |
    ⟨ha, htx, b, -, rfl⟩ := exec_next he
  · exact h
  · exact h.raiseFatal c
  · exact h.setTaken.respond .ok
  · exact h.respond _
  · refine (h.setCfg ?_).respond .ok
    obtain ⟨_, _, d, -, -, rfl⟩ | ⟨v, -, hv, rfl⟩ | ⟨v, -, hv, rfl⟩ | ⟨v, -, hv, rfl⟩ := hc
    · exact h.legal
    · exact ⟨hv, h.chsz, h.mode⟩
    · exact ⟨h.stop, hv, h.mode⟩
    · exact ⟨h.stop, h.chsz, hv⟩
  · exact h.setSeq ⟨(s.accepts_iff.mp ha).1, s.configurable_iff.mp hcfg⟩
  · exact h.setSeq ⟨(s.accepts_iff.mp ha).1, s.transmittable_iff.mp htx⟩

theorem commitStep_keeps_inv {s : State} {k : Fin 4} (h : Inv s) (hs : s.seq = .commit k) : Inv (commitStep k s) := by
  have hwrite := h.memWrite (commitReg_ne_status k) (commitValue s.cfg k)
  by_cases hk : k = 3
  · subst hk
    obtain ⟨-, htaken, -⟩ := h.commit 3 hs
    exact ((hwrite.setSeq (q := .idle) trivial).setPhase rfl htaken .initialized).respond .ok
  · rw [commitStep_of_ne hk]
    exact hwrite.setSeq (h.commit k hs)

theorem txPollStep_keeps_inv {s : State} {b : Byte} (h : Inv s) (hs : s.seq = .txPoll b) : Inv (txPollStep b s) := by
  obtain ⟨i, hi, -, -⟩ := txPollStep_eq b s
  rw [hi]
  refine ((h.setInp i).logBus_rd _ _).setSeq ?_
  split <;> exact h.poll b hs

theorem txWriteStep_keeps_inv {s : State} (b : Byte) (h : Inv s) : Inv (txWriteStep b s) :=
  ((h.memWrite (by decide) b).setSeq (q := .idle) trivial).respond .ok

theorem step_keeps_inv {s t : State} (h : Inv s) (hst : step s = .next t) : Inv t := by
  have hsampled : Inv s.sampled := h.setInp _
  obtain ⟨-, rfl⟩ | ⟨-, -, rfl⟩ | ⟨-, -, -, -, rfl⟩ | ⟨-, -, -, _, _, i, -, -, he⟩ | ⟨-, -, k, hq, rfl⟩ |
    ⟨-, -, b, hq, rfl⟩ | ⟨-, -, b, -, rfl⟩ := step_next hst
  · exact Inv.resetWith h.params _
  · exact hsampled
  · exact hsampled
  · exact exec_keeps_inv (hsampled.setInp _) he
  · exact commitStep_keeps_inv hsampled hq
  · exact txPollStep_keeps_inv hsampled hq
  · exact txWriteStep_keeps_inv b hsampled

/-! ### The obligations -/

/-- Settles O39: one case per way a step can go on, each a chain of updates that keep `Inv`. -/
theorem stepKeepsInvariant : Obligations.StepKeepsInvariant :=
  fun _ _ h hst => step_keeps_inv h hst

/-- Settles O38: `Inv.resetWith`, and the parameters at `State.reset` are ones R6 admits. -/
theorem resetStateHasInvariant : Obligations.ResetStateHasInvariant :=
  ⟨fun _ inp h => Inv.resetWith h inp, Inv.resetWith Config.params_wf Inputs.none⟩

end Sys2Proof.Machine

/-! The history invariant (R38, R39, R42, R71, R76): which updates of State keep it, and from that every step. -/

namespace Sys2Proof.Machine

/-! ### What the events of COMMIT and of TXB add to a history -/

/-- COMMIT's (k+1)-th event (R71). -/
theorem commitEvents_take_succ (hw : Params) (c : Cfg) (k : Fin 4) :
    (commitEvents hw c).take (k + 1) = (commitEvents hw c).take k ++ [.wr (hw.addr (commitReg k)) (commitValue c k)] := by
  fin_cases k <;> rfl

/-- A poll is an event allowed anywhere but between a ready poll and its write (R76). -/
theorem TxPlace.after_poll (hw : Params) {p : TxPlace} (hp : p ≠ .polled) (v : Byte) :
    p.after hw (.rd (hw.addr .status) v) = some (if ready hw v then .polled else .polling) := by
  cases p <;> simp_all [TxPlace.after]

/-- After a ready poll the write of DATA is the event allowed (R39 (c), R76). -/
theorem TxPlace.after_write (hw : Params) (v : Byte) :
    TxPlace.after hw .polled (.wr (hw.addr .data) v) = some .between := if_pos rfl

/-- The place of the transmission history that each value of SEQ goes with in Initialized (R76). -/
def TxPlace.Fits (p : TxPlace) : Seq → Prop
  | .idle => p = .between
  | .commit _ => True
  | .txPoll _ => p ≠ .polled
  | .txWrite _ => p = .polled

theorem TxPlace.fits_iff (p : TxPlace) (q : Seq) :
    p.Fits q ↔ (q = .idle → p = .between) ∧ (∀ b, q = .txPoll b → p ≠ .polled) ∧ ∀ b, q = .txWrite b → p = .polled := by
  cases q <;> simp [TxPlace.Fits]

/-- SEQ and the place go on alike after a poll: to the write where it found ready (R75, R76). -/
theorem TxPlace.fits_after_poll (found : Bool) (b : Byte) :
    (if found then polled else polling).Fits (if found then .txWrite b else .txPoll b) := by
  cases found <;> simp [TxPlace.Fits]

/-- A read is no write (R42). -/
theorem lastWrite_append_rd (a : Byte) (bus : List BusEvent) (b v : Byte) :
    lastWrite a (bus ++ [.rd b v]) = lastWrite a bus := lastWrite_append a bus _

namespace HistoryInv

variable {s : State}

/-! ### The updates that keep `HistoryInv` -/

/-- At reset nothing has been written and nothing holds a value. -/
theorem resetWith (hw : Params) (inp : Inputs) : HistoryInv (State.resetWith hw inp) where
  storage := fun _ => rfl
  before := fun _ _ => rfl
  during := fun _ hq => nomatch hq
  after := fun hp => nomatch hp

theorem setInp (h : HistoryInv s) (i : Inputs) : HistoryInv (s.setInp i) := { h with }

theorem respond (h : HistoryInv s) (r : Response) : HistoryInv (s.respond r) := { h with }

theorem setTaken (h : HistoryInv s) (v : Bool) : HistoryInv (s.setTaken v) := { h with }

theorem setHalt (h : HistoryInv s) (c : Option Cause) : HistoryInv (s.setHalt c) := { h with }

/-- Where no command was in progress a fatal halt changes HALT alone (R86). -/
theorem raiseFatal (h : HistoryInv s) (hs : s.seq = .idle) (c : Cause) : HistoryInv (s.raiseFatal c) :=
  have hseq : s.raiseFatal c = s.setHalt (some c) := by
    cases s
    subst hs
    rfl
  hseq ▸ h.setHalt _

/-- Before COMMIT the configuration may still change. -/
theorem setCfg (h : HistoryInv s) (hp : s.phase = .unconfigured) (hs : s.seq = .idle) (c : Cfg) :
    HistoryInv (s.setCfg c) :=
  { h with
    during := fun k hk => by simp [hs] at hk
    after := fun hi => by simp [hp] at hi }

end HistoryInv

/-! ### Commands, micro-steps and the step -/

/-- The acceptance of COMMIT: none of its writes is made yet (R22). -/
theorem setSeq_commit_keeps_history {s : State} (h : HistoryInv s) (hp : s.phase = .unconfigured) (hs : s.seq = .idle) :
    HistoryInv (s.setSeq (.commit 0)) where
  storage := h.storage
  before := fun _ hq => nomatch hq
  during := by
    rintro k ⟨⟩
    exact h.before hp hs
  after := fun hi => by simp [hp] at hi

/-- The acceptance of TXB: it has not polled yet (R22). -/
theorem setSeq_txPoll_keeps_history {s : State} (h : HistoryInv s) (hp : s.phase = .initialized) (hs : s.seq = .idle)
    (b : Byte) : HistoryInv (s.setSeq (.txPoll b)) where
  storage := h.storage
  before := fun _ hq => nomatch hq
  during := fun _ hq => nomatch hq
  after := by
    intro _
    obtain ⟨events, p, hbus, hplace, hidle, -, -⟩ := h.after hp
    have hfits : p.Fits (.txPoll b) := by simp [TxPlace.Fits, hidle hs]
    exact ⟨events, p, hbus, hplace, (p.fits_iff _).mp hfits⟩

theorem exec_keeps_history {i : Instr} {s t : State} (h : HistoryInv s) (he : exec i s = .next t) : HistoryInv t := by
  obtain ⟨-, rfl⟩ | ⟨ha, c, rfl⟩ | ⟨-, -, -, rfl⟩ | ⟨-, -, -, rfl⟩ | ⟨ha, hcfg, c, rfl, -⟩ | ⟨ha, hcfg, -, rfl⟩ |
    ⟨ha, htx, b, -, rfl⟩ := exec_next he
  · exact h
  · exact h.raiseFatal (s.accepts_iff.mp ha).2 c
  · exact (h.setTaken true).respond .ok
  · exact h.respond _
  · exact (h.setCfg (s.configurable_iff.mp hcfg).2 (s.accepts_iff.mp ha).2 c).respond .ok
  · exact setSeq_commit_keeps_history h (s.configurable_iff.mp hcfg).2 (s.accepts_iff.mp ha).2
  · exact setSeq_txPoll_keeps_history h (s.transmittable_iff.mp htx).2 (s.accepts_iff.mp ha).2 b

/-- A write is the last one to its own address (R42). -/
theorem memWrite_storage {s : State} (h : ∀ q, s.rf q = lastWrite (s.hw.addr q) s.bus) (r : Reg) (v : Byte) (q : Reg) :
    (s.memWrite r v).rf q = lastWrite (s.hw.addr q) (s.memWrite r v).bus := by
  rw [State.rf_memWrite, State.memWrite_bus, lastWrite_append, BusEvent.store, h q]
  exact if_congr eq_comm rfl rfl

theorem commitStep_keeps_history {s : State} {k : Fin 4} (hinv : Inv s) (h : HistoryInv s) (hs : s.seq = .commit k) :
    HistoryInv (commitStep k s) := by
  obtain ⟨-, -, hp⟩ := hinv.commit k hs
  have hstorage := memWrite_storage h.storage (commitReg k) (commitValue s.cfg k)
  have hbus : (s.memWrite (commitReg k) (commitValue s.cfg k)).bus = (commitEvents s.hw s.cfg).take (k + 1) := by
    rw [commitEvents_take_succ, ← h.during k hs, State.memWrite_bus]
  by_cases hk : k = 3
  · subst hk
    exact
      { storage := hstorage
        before := fun hu => nomatch hu
        during := fun _ hq => nomatch hq
        after := fun _ => ⟨[], .between, by rw [List.append_nil]; exact hbus, rfl, (TxPlace.fits_iff _ .idle).mp rfl⟩ }
  · rw [commitStep_of_ne hk]
    exact
      { storage := hstorage
        before := fun _ hq => nomatch hq
        during := by
          rintro j ⟨⟩
          rw [Fin.val_add_one_of_lt (Fin.lt_last_iff_ne_last.mpr hk)]
          exact hbus
        after := fun hi => by simp [hp] at hi }

theorem txPollStep_keeps_history {s : State} {b : Byte} (hinv : Inv s) (h : HistoryInv s) (hs : s.seq = .txPoll b) :
    HistoryInv (txPollStep b s) := by
  obtain ⟨-, -, hp⟩ := hinv.poll b hs
  obtain ⟨events, p, hbus, hplace, -, hpoll, -⟩ := h.after hp
  obtain ⟨i, hi, -, -⟩ := txPollStep_eq b s
  rw [hi]
  refine ⟨fun q => ?_, fun hu => ?_, fun k hq => ?_, fun _ => ?_⟩
  · exact (h.storage q).trans (lastWrite_append_rd _ _ _ _).symm
  · simp [hp] at hu
  · rw [State.setSeq_seq] at hq
    split at hq <;> nomatch hq
  · refine ⟨events ++ [.rd (s.hw.addr .status) s.nextDraw], _, ?_, ?_,
      (TxPlace.fits_iff _ _).mp (TxPlace.fits_after_poll (ready s.hw s.nextDraw) b)⟩
    · simp [hbus]
    · simp [txPlace_append, hplace, TxPlace.after_poll s.hw (hpoll b hs)]

theorem txWriteStep_keeps_history {s : State} {b : Byte} (hinv : Inv s) (h : HistoryInv s) (hs : s.seq = .txWrite b) :
    HistoryInv (txWriteStep b s) where
  storage := memWrite_storage h.storage .data b
  before := by
    obtain ⟨-, -, hp⟩ := hinv.write b hs
    intro hu
    simp [txWriteStep, hp] at hu
  during := fun _ hq => nomatch hq
  after := by
    intro _
    obtain ⟨-, -, hp⟩ := hinv.write b hs
    obtain ⟨events, p, hbus, hplace, -, -, hpolled⟩ := h.after hp
    obtain rfl := hpolled b hs
    refine ⟨events ++ [.wr (s.hw.addr .data) b], .between, ?_, ?_, (TxPlace.fits_iff _ .idle).mp rfl⟩
    · simp [txWriteStep, hbus]
    · simp [txWriteStep, txPlace_append, hplace, TxPlace.after_write]

theorem step_keeps_history {s t : State} (hinv : Inv s) (h : HistoryInv s) (hst : step s = .next t) : HistoryInv t := by
  have hsi : Inv s.sampled := hinv.setInp _
  have hsh : HistoryInv s.sampled := h.setInp _
  obtain ⟨-, rfl⟩ | ⟨-, -, rfl⟩ | ⟨-, -, -, -, rfl⟩ | ⟨-, -, -, _, _, i, -, -, he⟩ | ⟨-, -, k, hq, rfl⟩ |
    ⟨-, -, b, hq, rfl⟩ | ⟨-, -, b, hq, rfl⟩ := step_next hst
  · exact HistoryInv.resetWith _ _
  · exact hsh
  · exact hsh
  · exact exec_keeps_history (hsh.setInp _) he
  · exact commitStep_keeps_history hsi hsh hq
  · exact txPollStep_keeps_history hsi hsh hq
  · exact txWriteStep_keeps_history hsi hsh hq

/-! ### The obligations -/

/-- Settles O41: one case per way a step can go on; `Inv` says in which PHASE each micro-step happens. -/
theorem stepKeepsHistoryInvariant : Obligations.StepKeepsHistoryInvariant :=
  fun _ _ hinv h hst => step_keeps_history hinv h hst

/-- Settles O40: at reset BUS is empty and no register holds a value. -/
theorem resetStateHasHistoryInvariant : Obligations.ResetStateHasHistoryInvariant :=
  ⟨fun hw inp _ => HistoryInv.resetWith hw inp, HistoryInv.resetWith Config.params Inputs.none⟩

end Sys2Proof.Machine

/-! What single steps do and leave alone: the waiting, the halted and the busy block (R22, R86), reset (R27, R95), the
micro-steps of COMMIT and TXB (R71, R76), and the configuration after COMMIT (R10). -/

namespace Sys2Proof.Machine

/-! ### The acceptance of a command -/

/-- Where no command is accepted, one presented has no effect (R22, R85 item 1, R86); TAKEOVER is refused even there (R62). -/
theorem exec_notAccepted {s : State} (hs : s.accepts = false) {i : Instr} (hi : i ≠ .takeover) : exec i s = .next s := by
  cases i with
  | takeover => exact absurd rfl hi
  | extract => rw [exec_extract, runCommand_notAccepted hs]
  | setcb clockHz baud => rw [exec_setcb, runCommand_notAccepted hs]
  | setsb v => rw [exec_setsb, runCommand_notAccepted hs]
  | setcs v => rw [exec_setcs, runCommand_notAccepted hs]
  | setmd v => rw [exec_setmd, runCommand_notAccepted hs]
  | commit => rw [exec_commit, runCommand_notAccepted hs]
  | txb b => rw [exec_txb, runCommand_notAccepted hs]

/-- A presented command changes no register and not PHASE, and never clears TAKEN. -/
theorem exec_frame {i : Instr} {s t : State} (h : exec i s = .next t) :
    t.mem = s.mem ∧ t.phase = s.phase ∧ (s.taken = true → t.taken = true) := by
  obtain ⟨-, rfl⟩ | ⟨-, _, rfl⟩ | ⟨-, -, -, rfl⟩ | ⟨-, -, -, rfl⟩ | ⟨-, -, _, rfl, -⟩ | ⟨-, -, -, rfl⟩ |
    ⟨-, -, _, -, rfl⟩ := exec_next h <;> simp

/-- Outside TAKEN = 1, Unconfigured no command changes the configuration (R83). -/
theorem exec_cfg_of_not_configurable {i : Instr} {s t : State} (hs : s.configurable = false) (h : exec i s = .next t) :
    t.cfg = s.cfg := by
  obtain ⟨-, rfl⟩ | ⟨-, _, rfl⟩ | ⟨-, -, -, rfl⟩ | ⟨-, hc, -⟩ | ⟨-, hc, -⟩ | ⟨-, hc, -⟩ |
    ⟨-, -, _, -, rfl⟩ := exec_next h
  case inr.inr.inr.inl | inr.inr.inr.inr.inl | inr.inr.inr.inr.inr.inl => simp [hs] at hc
  all_goals rfl

/-! ### The frame of the micro-steps -/

/-! No micro-step of COMMIT touches TAKEN, HALT, the configuration or the inputs (R71). -/

@[simp] theorem commitStep_taken (k : Fin 4) (s : State) : (commitStep k s).taken = s.taken := by
  unfold commitStep
  split <;> rfl

@[simp] theorem commitStep_halt (k : Fin 4) (s : State) : (commitStep k s).halt = s.halt := by
  unfold commitStep
  split <;> rfl

@[simp] theorem commitStep_cfg (k : Fin 4) (s : State) : (commitStep k s).cfg = s.cfg := by
  unfold commitStep
  split <;> rfl

@[simp] theorem commitStep_inp (k : Fin 4) (s : State) : (commitStep k s).inp = s.inp := by
  unfold commitStep
  split <;> rfl

/-- A micro-step of COMMIT makes its one write (R71). -/
theorem commitStep_mem (k : Fin 4) (s : State) :
    (commitStep k s).mem = s.mem.write (s.hw.addr (commitReg k)).toNat (commitValue s.cfg k) := by
  unfold commitStep
  split <;> rfl

/-- COMMIT ends in Initialized and never leaves it (R71). -/
theorem commitStep_phase (k : Fin 4) (s : State) :
    (commitStep k s).phase = if k = 3 then .initialized else s.phase := by
  unfold commitStep
  split <;> rfl

/-- A micro-step of COMMIT leaves the words at the port, a poll and a write of DATA do too (log 9). -/
theorem advance_cmds (s : State) : (advance s).inp.cmds = s.inp.cmds := by
  unfold advance
  split
  next => rfl
  next k _ => rw [commitStep_inp]
  next b _ =>
    obtain ⟨i, hi, hc, -⟩ := txPollStep_eq b s
    rw [hi]
    exact hc
  next => rfl

/-! ### A step inside a command -/

/-- Inside COMMIT (R71). -/
theorem step_commit {s : State} {k : Fin 4} (hr : s.resetAsserted = false) (hh : s.halt = none) (hq : s.seq = .commit k) :
    step s = .next (commitStep k s.sampled) := by
  rw [step_busy hr hh (by simp [hq]), advance, State.sampled_seq, hq]

/-- While TXB polls (R75, R76). -/
theorem step_txPoll {s : State} {b : Byte} (hr : s.resetAsserted = false) (hh : s.halt = none) (hq : s.seq = .txPoll b) :
    ∃ i, step s = .next (((s.setInp i).logBus (.rd (s.hw.addr .status) s.nextDraw)).setSeq
        (if ready s.hw s.nextDraw then .txWrite b else .txPoll b)) ∧
      i.cmds = s.inp.cmds ∧ i.reset = s.inp.reset.tail := by
  obtain ⟨i, hi, hc, hrest⟩ := txPollStep_eq b s.sampled
  refine ⟨i, ?_, hc, hrest⟩
  rw [step_busy hr hh (by simp [hq]), advance, State.sampled_seq, hq]
  exact congrArg _ hi

/-- Where TXB has found ready (R76). -/
theorem step_txWrite {s : State} {b : Byte} (hr : s.resetAsserted = false) (hh : s.halt = none) (hq : s.seq = .txWrite b) :
    step s = .next (txWriteStep b s.sampled) := by
  rw [step_busy hr hh (by simp [hq]), advance, State.sampled_seq, hq]

/-! ### The waiting, the busy and the halted block -/

/-- Settles O9: the port is looked at and holds no word. -/
theorem idleBlockWaits : Obligations.IdleBlockWaits := by
  intro s hr hh hs hc
  rw [step_accepting hr hh hs, acceptCommand_nil (by simpa using hc)]
  rfl

/-- Settles O8: a busy block does not accept, and its micro-steps do not look at the port. -/
theorem busyBlockAcceptsNothing : Obligations.BusyBlockAcceptsNothing := by
  refine ⟨fun s i hs hi => exec_notAccepted (by simp [State.accepts, hs]) hi, fun s t hr hs h => ?_⟩
  cases hh : s.halt with
  | some c =>
    rw [step_halted hr (by simp [hh])] at h
    cases h
    rfl
  | none =>
    rw [step_busy hr hh hs] at h
    cases h
    exact advance_cmds s.sampled

theorem accepts_of_halted {s : State} (h : s.halt.isSome = true) : s.accepts = false := by
  simp [State.accepts, State.halted, h]

/-- Any number of steps of a halted block take the samples of the reset input and change nothing else (R86). -/
theorem steps_halted (n : Nat) {s : State} (hh : s.halt.isSome = true) (hr : s.noReset = true) :
    steps n s = .next (s.setInp { s.inp with reset := s.inp.reset.drop n }) := by
  induction n generalizing s with
  | zero => rfl
  | succ n ih =>
    obtain ⟨hr0, hrs⟩ := noReset_step hr
    have htail : steps n s.sampled = .next (s.sampled.setInp { s.inp with reset := s.inp.reset.tail.drop n }) :=
      ih (s := s.sampled) hh hrs
    simp only [steps, step_halted hr0 hh, htail, List.drop_tail]
    rfl

/-- Settles O24: a halted block accepts nothing, and its steps only sample the reset input. -/
theorem haltedBlockDoesNothing : Obligations.HaltedBlockDoesNothing :=
  ⟨fun _ _ => rfl, fun _ hh =>
    ⟨fun hr => step_halted hr hh, fun n hr => steps_halted n hh hr,
      fun _ hi => exec_notAccepted (accepts_of_halted hh) hi, by simp [State.completed, accepts_of_halted hh]⟩⟩

/-! ### Reset -/

theorem legalStop_iff (v : Byte) : legalStop v = true ↔ v ∈ ([0, 8] : List Byte) := by simp [legalStop]

theorem legalChsz_iff (v : Byte) : legalChsz v = true ↔ v ∈ ([0, 2, 4, 6] : List Byte) := by simp [legalChsz, or_assoc]

theorem legalMode_iff (v : Byte) : legalMode v = true ↔ v ∈ ([0, 8, 16, 24] : List Byte) := by simp [legalMode, or_assoc]

/-- With TAKEN = 0 every command but EXTRACT that is accepted is a fatal halt (R88). -/
theorem eq_extract_of_exec_not_taken {i : Instr} {s t : State} (hs : s.accepts = true) (ht : s.taken = false)
    (h : exec i s = .next t) (hh : t.halt = none) : i = .extract := by
  obtain ⟨hs', -⟩ | ⟨-, c, rfl⟩ | ⟨-, hi, -⟩ | ⟨-, hc, -⟩ | ⟨-, hc, -⟩ | ⟨-, hc, -⟩ | ⟨-, hc, -⟩ := exec_next h
  · simp [hs] at hs'
  · simp at hh
  · exact hi
  · simp [State.configurable, ht] at hc
  · simp [State.configurable, ht] at hc
  · simp [State.configurable, ht] at hc
  · simp [State.transmittable, ht] at hc

/-- Settles O11: the values of R27 by definition; EXTRACT is the only command that succeeds with TAKEN = 0. -/
theorem resetStateValues : Obligations.ResetStateValues := by
  constructor
  · intro hw inp
    exact ⟨rfl, rfl, rfl, rfl, rfl, rfl, rfl, fun _ => rfl, State.readsDraw_status _, rfl, rfl,
      fun i t => eq_extract_of_exec_not_taken rfl rfl⟩
  · obtain ⟨hstop, hchsz, hmode⟩ := params_wf_selectors Config.params_wf
    exact ⟨_, _, rfl, Config.params_wf, (legalStop_iff _).mp hstop, (legalChsz_iff _).mp hchsz, (legalMode_iff _).mp hmode⟩

/-- No step but a reset clears TAKEN (R19). -/
theorem step_keeps_taken {s t : State} (hr : s.resetAsserted = false) (h : step s = .next t) (ht : s.taken = true) :
    t.taken = true := by
  obtain ⟨hr', -⟩ | ⟨-, -, rfl⟩ | ⟨-, -, -, -, rfl⟩ | ⟨-, -, -, _, _, i, -, -, he⟩ | ⟨-, -, k, -, rfl⟩ |
    ⟨-, -, b, -, rfl⟩ | ⟨-, -, b, -, rfl⟩ := step_next h
  · simp [hr] at hr'
  · exact ht
  · exact ht
  · obtain ⟨-, -, htaken⟩ := exec_frame he
    exact htaken ht
  · exact (commitStep_taken k s.sampled).trans ht
  · obtain ⟨i, hi, -, -⟩ := txPollStep_eq b s.sampled
    rw [hi]
    exact ht
  · exact ht

/-- No step but a reset leaves Initialized (R20). -/
theorem step_keeps_initialized {s t : State} (hr : s.resetAsserted = false) (h : step s = .next t)
    (hp : s.phase = .initialized) : t.phase = .initialized := by
  obtain ⟨hr', -⟩ | ⟨-, -, rfl⟩ | ⟨-, -, -, -, rfl⟩ | ⟨-, -, -, _, _, i, -, -, he⟩ | ⟨-, -, k, -, rfl⟩ |
    ⟨-, -, b, -, rfl⟩ | ⟨-, -, b, -, rfl⟩ := step_next h
  · simp [hr] at hr'
  · exact hp
  · exact hp
  · obtain ⟨-, hphase, -⟩ := exec_frame he
    exact hphase.trans hp
  · simp [commitStep_phase, hp]
  · obtain ⟨i, hi, -, -⟩ := txPollStep_eq b s.sampled
    rw [hi]
    exact hp
  · exact hp

/-- Nothing but a reset leaves a fatal halt (R21, R87). -/
theorem step_keeps_halt {s t : State} (hr : s.resetAsserted = false) (h : step s = .next t) {c : Cause}
    (hc : s.halt = some c) : t.halt = some c := by
  rw [step_halted hr (by simp [hc])] at h
  cases h
  exact hc

/-- A TXB that finds not ready goes on polling (R76). -/
theorem step_keeps_polling {s t : State} (hr : s.resetAsserted = false) (h : step s = .next t) {b : Byte}
    (hq : s.seq = .txPoll b) (hn : ready s.hw s.nextDraw = false) : t.seq = .txPoll b := by
  cases hh : s.halt with
  | some c =>
    rw [step_halted hr (by simp [hh])] at h
    cases h
    exact hq
  | none =>
    obtain ⟨i, hi, -, -⟩ := step_txPoll hr hh hq
    rw [hi] at h
    cases h
    simp [hn]

/-- Settles O12: `step_reset`, and one lemma per latch. -/
theorem resetIsTheOnlyWayOut : Obligations.ResetIsTheOnlyWayOut :=
  ⟨fun _ hr => step_reset hr, fun _ _ hr h =>
    ⟨step_keeps_taken hr h, step_keeps_initialized hr h, fun _ => step_keeps_halt hr h, fun _ => step_keeps_polling hr h⟩⟩

/-! ### The micro-steps of COMMIT and TXB -/

/-- Settles O20: the one `memWrite` of the micro-step, and the laws of the register space. -/
theorem commitMicroStepFrame : Obligations.CommitMicroStepFrame := by
  intro s k hr hh hq
  refine ⟨_, step_commit hr hh hq, ?_⟩
  obtain ⟨hhw, hbus, htx⟩ := commitStep_hw_bus_tx k s.sampled
  have hmem : (commitStep k s.sampled).mem = s.mem.write (s.hw.addr (commitReg k)).toNat (commitValue s.cfg k) :=
    commitStep_mem k s.sampled
  refine ⟨?_, fun a ha => ?_, hbus, fun hne => htx.trans (if_neg hne), fun hk => ?_, ?_, hhw,
    commitStep_taken k _, (commitStep_halt k _).trans hh, commitStep_cfg k _, commitStep_inp k _⟩
  · rw [hmem, Memory.read_write_same]
  · rw [hmem, Memory.read_write_other _ _ ha]
  · rw [commitStep_of_ne (by omega)]
    exact ⟨rfl, rfl, rfl⟩
  · rintro rfl
    exact ⟨rfl, rfl, rfl⟩

/-- Settles O33: acceptance, a poll, the write of DATA. -/
theorem txbPollsThenWrites : Obligations.TxbPollsThenWrites := by
  refine ⟨fun s b hh hs ht hp => ?_, fun s b hr hh hq => step_txPoll hr hh hq, fun s b hr hh hq => ?_⟩
  · rw [exec_txb, s.transmittable_iff.mpr ⟨ht, hp⟩, runCommand_admitted (s.accepts_iff.mpr ⟨hh, hs⟩)]
    rfl
  · rw [step_txWrite hr hh hq]
    simp [txWriteStep, State.memWrite, State.setSeq, State.respond, State.sampled, State.setInp]

/-! ### After COMMIT -/

/-- A write of another register leaves what a register holds (R31, R37). -/
theorem State.rf_memWrite_other {s : State} (hw : s.hw.wf = true) {r q : Reg} (hqr : q ≠ r) (v : Byte) :
    (s.memWrite r v).rf q = s.rf q := by
  rw [State.rf_memWrite, if_neg (Params.addr_ne hw hqr)]

/-- Settles O27: after COMMIT no setter and no COMMIT is admitted, and the only register written is DATA. -/
theorem configurationFrozenAfterCommit : Obligations.ConfigurationFrozenAfterCommit := by
  intro s t hinv hp hr h
  refine ⟨step_keeps_initialized hr h hp, ?_⟩
  obtain ⟨hr', -⟩ | ⟨-, -, rfl⟩ | ⟨-, -, -, -, rfl⟩ | ⟨-, -, -, _, _, i, -, -, he⟩ | ⟨-, -, k, hq, -⟩ |
    ⟨-, -, b, -, rfl⟩ | ⟨-, -, b, -, rfl⟩ := step_next h
  · simp [hr] at hr'
  · exact ⟨rfl, fun _ _ => rfl⟩
  · exact ⟨rfl, fun _ _ => rfl⟩
  · have hcfg := exec_cfg_of_not_configurable (by simp [State.configurable, hp]) he
    obtain ⟨hmem, -, -⟩ := exec_frame he
    obtain ⟨hhw, -, -⟩ := exec_hw_bus_tx he
    exact ⟨hcfg, fun r _ => by simp [State.rf, hhw, hmem]⟩
  · obtain ⟨-, -, hu⟩ := hinv.commit k hq
    simp [hp] at hu
  · obtain ⟨i, hi, -, -⟩ := txPollStep_eq b s.sampled
    rw [hi]
    exact ⟨rfl, fun _ _ => rfl⟩
  · exact ⟨rfl, fun r hne => State.rf_memWrite_other (s := s.sampled) hinv.params hne b⟩

end Sys2Proof.Machine

/-! What no step depends on: CFG.CLK (R10), and the histories with the registers (R13, R24, R43). Both follow from one fact:
a relation that leaves alone what the control reads, and that every update of State keeps, is kept by every micro-step. -/

namespace Sys2Proof.Machine

/-! ### Related states step alike -/

/-- The second outcome is of the same kind as the first, with a related next state or the same refusal. -/
def OutcomeRel (R : State → State → Prop) : Host.Outcome State Fault Refusal → Host.Outcome State Fault Refusal → Prop
  | .next t, o => ∃ t', o = .next t' ∧ R t t'
  | .refused r, o => o = .refused r
  | .fault _, _ => False

/-- The two blocks agree in everything the control reads: all of the state but CFG, the registers and the histories, and the
values COMMIT would write. -/
structure SameControl (s s' : State) : Prop where
  hw : s'.hw = s.hw
  taken : s'.taken = s.taken
  phase : s'.phase = s.phase
  halt : s'.halt = s.halt
  seq : s'.seq = s.seq
  inp : s'.inp = s.inp
  values : commitValue s'.cfg = commitValue s.cfg

/-- Related blocks look alike to the control, and stay related under each update that a micro-step makes. -/
structure Invisible (R : State → State → Prop) : Prop where
  control : ∀ {s s'}, R s s' → SameControl s s'
  setTaken : ∀ {s s'} v, R s s' → R (s.setTaken v) (s'.setTaken v)
  setPhase : ∀ {s s'} p, R s s' → R (s.setPhase p) (s'.setPhase p)
  setHalt : ∀ {s s'} c, R s s' → R (s.setHalt c) (s'.setHalt c)
  setSeq : ∀ {s s'} q, R s s' → R (s.setSeq q) (s'.setSeq q)
  setInp : ∀ {s s'} i, R s s' → R (s.setInp i) (s'.setInp i)
  respond : ∀ {s s'} r, R s s' → R (s.respond r) (s'.respond r)
  logBus : ∀ {s s'} e, R s s' → R (s.logBus e) (s'.logBus e)
  memWrite : ∀ {s s'} r v, R s s' → R (s.memWrite r v) (s'.memWrite r v)
  setClkDiv : ∀ {s s'} c d, R s s' →
    R (s.setCfg { s.cfg with clk := c, div := d }) (s'.setCfg { s'.cfg with clk := c, div := d })
  setStop : ∀ {s s'} v, R s s' → R (s.setCfg { s.cfg with stop := v }) (s'.setCfg { s'.cfg with stop := v })
  setChsz : ∀ {s s'} v, R s s' → R (s.setCfg { s.cfg with chsz := v }) (s'.setCfg { s'.cfg with chsz := v })
  setMode : ∀ {s s'} v, R s s' → R (s.setCfg { s.cfg with mode := v }) (s'.setCfg { s'.cfg with mode := v })

namespace SameControl

variable {s s' : State}

theorem accepts (h : SameControl s s') : s'.accepts = s.accepts := by
  simp [State.accepts, State.halted, h.halt, h.seq]

theorem configurable (h : SameControl s s') : s'.configurable = s.configurable := by
  simp [State.configurable, h.taken, h.phase]

theorem transmittable (h : SameControl s s') : s'.transmittable = s.transmittable := by
  simp [State.transmittable, h.taken, h.phase]

theorem nextDraw (h : SameControl s s') : s'.nextDraw = s.nextDraw := by
  simp [State.nextDraw, h.inp]

end SameControl

namespace Invisible

variable {R : State → State → Prop} (hR : Invisible R) {s s' : State}

include hR

theorem runCommand (h : R s s') (why : Option Reserved) (admitted : Bool) (c : Cause) {effect : State → State}
    (he : R (effect s) (effect s')) :
    OutcomeRel R (runCommand why admitted c effect s) (runCommand why admitted c effect s') := by
  cases hs : s.accepts with
  | false =>
    rw [runCommand_notAccepted hs, runCommand_notAccepted ((hR.control h).accepts.trans hs)]
    exact ⟨s', rfl, h⟩
  | true =>
    have hs' : s'.accepts = true := (hR.control h).accepts.trans hs
    cases why with
    | some why => simp [Machine.runCommand, hs, hs', OutcomeRel]
    | none =>
      cases admitted with
      | true =>
        rw [runCommand_admitted hs, runCommand_admitted hs']
        exact ⟨_, rfl, he⟩
      | false =>
        rw [runCommand_fatal hs, runCommand_fatal hs']
        exact ⟨_, rfl, hR.setSeq .idle (hR.setHalt (some c) h)⟩

theorem setcbEffect (h : R s s') (clockHz baud : Operand) :
    R (setcbEffect clockHz baud s) (setcbEffect clockHz baud s') := by
  unfold Machine.setcbEffect
  split
  · exact hR.respond _ (hR.setClkDiv _ _ h)
  · exact hR.respond _ h

theorem exec (h : R s s') (i : Instr) : OutcomeRel R (exec i s) (exec i s') := by
  have hc := hR.control h
  cases i with
  | takeover => rfl
  | extract =>
    rw [exec_extract, exec_extract, hc.taken]
    exact hR.runCommand h _ _ _ (hR.respond _ (hR.setTaken _ h))
  | setcb clockHz baud =>
    rw [exec_setcb, exec_setcb, hc.configurable]
    exact hR.runCommand h _ _ _ (hR.setcbEffect h clockHz baud)
  | setsb v =>
    rw [exec_setsb, exec_setsb, hc.configurable]
    exact hR.runCommand h _ _ _ (hR.respond _ (hR.setStop v h))
  | setcs v =>
    rw [exec_setcs, exec_setcs, hc.configurable]
    exact hR.runCommand h _ _ _ (hR.respond _ (hR.setChsz v h))
  | setmd v =>
    rw [exec_setmd, exec_setmd, hc.configurable]
    exact hR.runCommand h _ _ _ (hR.respond _ (hR.setMode v h))
  | commit =>
    rw [exec_commit, exec_commit, hc.configurable]
    exact hR.runCommand h _ _ _ (hR.setSeq _ h)
  | txb b =>
    rw [exec_txb, exec_txb, hc.transmittable]
    exact hR.runCommand h _ _ _ (hR.setSeq _ h)

theorem commitStep (h : R s s') (k : Fin 4) : R (commitStep k s) (commitStep k s') := by
  unfold Machine.commitStep
  rw [(hR.control h).values]
  split
  · exact hR.respond _ (hR.setSeq _ (hR.setPhase _ (hR.memWrite _ _ h)))
  · exact hR.setSeq _ (hR.memWrite _ _ h)

theorem dropDraw (h : R s s') : R s.dropDraw s'.dropDraw := by
  unfold State.dropDraw
  rw [(hR.control h).inp]
  split <;> exact hR.setInp _ h

theorem txPollStep (h : R s s') (b : Byte) : R (txPollStep b s) (txPollStep b s') := by
  unfold Machine.txPollStep
  rw [State.memRead_status, State.memRead_status, State.readValue_status, State.readValue_status,
    (hR.control h).nextDraw, (hR.control h).hw]
  exact hR.setSeq _ (hR.logBus _ (hR.dropDraw h))

theorem advance (h : R s s') : R (advance s) (advance s') := by
  unfold Machine.advance
  rw [(hR.control h).seq]
  split
  next => exact h
  next k _ => exact hR.commitStep h k
  next b _ => exact hR.txPollStep h b
  next b _ => exact hR.respond _ (hR.setSeq _ (hR.memWrite _ _ h))

theorem acceptCommand (h : R s s') : OutcomeRel R (acceptCommand s) (acceptCommand s') := by
  have hinp := (hR.control h).inp
  have htaking : R s.taking s'.taking := by
    simpa only [State.taking, hinp] using hR.setInp { s.inp with cmds := s.inp.cmds.tail } h
  cases hw : s.inp.cmds with
  | nil =>
    rw [acceptCommand_nil hw, acceptCommand_nil (by rw [hinp, hw])]
    exact ⟨s', rfl, h⟩
  | cons w rest =>
    have hw' : s'.inp.cmds = w :: rest := by rw [hinp, hw]
    cases hd : decode w with
    | ok i =>
      rw [acceptCommand_ok hw hd, acceptCommand_ok hw' hd]
      exact hR.exec htaking i
    | error why =>
      rw [acceptCommand_reserved hw hd, acceptCommand_reserved hw' hd]
      rfl

/-- Every step that is not a reset keeps the relation. -/
theorem step (h : R s s') (hr : s.resetAsserted = false) : OutcomeRel R (step s) (step s') := by
  have hc := hR.control h
  have hr' : s'.resetAsserted = false := by rw [← hr, State.resetAsserted, State.resetAsserted, hc.inp]
  have hsampled : R s.sampled s'.sampled := by
    simpa only [State.sampled, hc.inp] using hR.setInp { s.inp with reset := s.inp.reset.tail } h
  cases hh : s.halt with
  | some c =>
    rw [step_halted hr (by simp [hh]), step_halted hr' (by simp [hc.halt, hh])]
    exact ⟨_, rfl, hsampled⟩
  | none =>
    by_cases hs : s.seq = .idle
    · rw [step_accepting hr hh hs, step_accepting hr' (hc.halt.trans hh) (hc.seq.trans hs)]
      exact hR.acceptCommand hsampled
    · rw [step_busy hr hh hs, step_busy hr' (hc.halt.trans hh) (by rwa [hc.seq])]
      exact ⟨_, rfl, hR.advance hsampled⟩

end Invisible

/-! ### CFG.CLK -/

/-- The same block, or the one that differs in CFG.CLK alone. -/
def SameButClock (c : Operand) (s s' : State) : Prop :=
  s' = { s with cfg := { s.cfg with clk := c } } ∨ s' = s

/-- Only SETCB writes CFG.CLK, and nothing reads it (R10). -/
theorem sameButClock_invisible (c : Operand) : Invisible (SameButClock c) where
  control := by rintro s s' (rfl | rfl) <;> constructor <;> rfl
  setTaken := by rintro s s' v (rfl | rfl); exacts [.inl rfl, .inr rfl]
  setPhase := by rintro s s' p (rfl | rfl); exacts [.inl rfl, .inr rfl]
  setHalt := by rintro s s' h (rfl | rfl); exacts [.inl rfl, .inr rfl]
  setSeq := by rintro s s' q (rfl | rfl); exacts [.inl rfl, .inr rfl]
  setInp := by rintro s s' i (rfl | rfl); exacts [.inl rfl, .inr rfl]
  respond := by rintro s s' r (rfl | rfl); exacts [.inl rfl, .inr rfl]
  logBus := by rintro s s' e (rfl | rfl); exacts [.inl rfl, .inr rfl]
  memWrite := by rintro s s' r v (rfl | rfl); exacts [.inl rfl, .inr rfl]
  setClkDiv := by rintro s s' k d (rfl | rfl) <;> exact .inr rfl
  setStop := by rintro s s' v (rfl | rfl); exacts [.inl rfl, .inr rfl]
  setChsz := by rintro s s' v (rfl | rfl); exacts [.inl rfl, .inr rfl]
  setMode := by rintro s s' v (rfl | rfl); exacts [.inl rfl, .inr rfl]

/-- Every step, a reset too: it gives CFG.CLK the same value in both blocks. -/
theorem step_sameButClock (s : State) (c : Operand) :
    OutcomeRel (SameButClock c) (step s) (step { s with cfg := { s.cfg with clk := c } }) := by
  cases hr : s.resetAsserted with
  | false => exact (sameButClock_invisible c).step (.inl rfl) hr
  | true =>
    rw [step_reset hr, step_reset (s := { s with cfg := { s.cfg with clk := c } }) hr]
    exact ⟨_, rfl, .inr rfl⟩

/-- Settles O28: no step tells blocks that differ in CFG.CLK apart. -/
theorem storedClockIsNeverUsed : Obligations.StoredClockIsNeverUsed := by
  intro s c
  have h := step_sameButClock s c
  cases hs : step s with
  | next t =>
    rw [hs] at h
    obtain ⟨t', ht', rfl | rfl⟩ := h
    · exact .inl ht'
    · exact .inr ht'
  | refused r =>
    rw [hs] at h
    exact h
  | fault r => nomatch r

/-! ### The histories and the registers -/

/-- The block with other histories before its own, and other register contents. -/
def State.withPast (bus : List BusEvent) (tx : List Byte) (rsp : List Response) (mem : Memory) (s : State) : State :=
  { s with bus := bus ++ s.bus, tx := tx ++ s.tx, rsp := rsp ++ s.rsp, mem := mem }

/-- The second block is the first with these histories before its own and some register contents. -/
def SameButPast (bus : List BusEvent) (tx : List Byte) (rsp : List Response) (s s' : State) : Prop :=
  ∃ mem, s' = s.withPast bus tx rsp mem

/-- The histories are only appended to, and a register is only written: the one read, of STATUS, asks the peripheral (R41). -/
theorem sameButPast_invisible (bus : List BusEvent) (tx : List Byte) (rsp : List Response) :
    Invisible (SameButPast bus tx rsp) where
  control := by rintro s s' ⟨mem, rfl⟩; constructor <;> rfl
  setTaken := by rintro s s' v ⟨mem, rfl⟩; exact ⟨mem, rfl⟩
  setPhase := by rintro s s' p ⟨mem, rfl⟩; exact ⟨mem, rfl⟩
  setHalt := by rintro s s' h ⟨mem, rfl⟩; exact ⟨mem, rfl⟩
  setSeq := by rintro s s' q ⟨mem, rfl⟩; exact ⟨mem, rfl⟩
  setInp := by rintro s s' i ⟨mem, rfl⟩; exact ⟨mem, rfl⟩
  respond := by rintro s s' r ⟨mem, rfl⟩; exact ⟨mem, by simp [State.withPast, State.respond]⟩
  logBus := by rintro s s' e ⟨mem, rfl⟩; exact ⟨mem, by simp [State.withPast, State.logBus]⟩
  memWrite := by
    rintro s s' r v ⟨mem, rfl⟩
    refine ⟨mem.write (s.hw.addr r).toNat v, ?_⟩
    simp only [State.withPast, State.memWrite, List.append_assoc]
    split <;> rfl
  setClkDiv := by rintro s s' c d ⟨mem, rfl⟩; exact ⟨mem, rfl⟩
  setStop := by rintro s s' v ⟨mem, rfl⟩; exact ⟨mem, rfl⟩
  setChsz := by rintro s s' v ⟨mem, rfl⟩; exact ⟨mem, rfl⟩
  setMode := by rintro s s' v ⟨mem, rfl⟩; exact ⟨mem, rfl⟩

/-- Settles O29: no step but a reset tells blocks that differ in their past apart. -/
theorem historiesAndRegistersAreNeverRead : Obligations.HistoriesAndRegistersAreNeverRead := by
  intro s t bus tx rsp mem hr h
  have hrel := (sameButPast_invisible bus tx rsp).step ⟨mem, rfl⟩ hr
  rw [h] at hrel
  obtain ⟨_, ht', mem', rfl⟩ := hrel
  exact ⟨mem', ht'⟩

end Sys2Proof.Machine

/-! The register space and the histories: the two access primitives (R30, R31), the frame of the acceptance of a command
(R38), the runs of COMMIT (R71) and of TXS (R59, R77), and the registers in Initialized (R43). -/

namespace Sys2Proof.Machine

/-! ### The two register accesses -/

/-- Settles O30: a write replaces the value at its own address (`Memory.read_write`), and the rest is by definition. -/
theorem registerWriteEffect : Obligations.RegisterWriteEffect := by
  intro s r v
  exact ⟨(s.rf_memWrite r r v).trans (if_pos rfl), fun _ ha => Memory.read_write_other _ _ ha, rfl, rfl, rfl⟩

/-- A register that holds a value, at another address than STATUS, is read as that value (R42). -/
theorem State.readValue_of_rf {s : State} {r : Reg} {v : Byte} (ha : s.hw.addr r ≠ s.hw.addr .status)
    (hv : s.rf r = some v) : s.readValue r = v := by
  have hdraw : s.readsDraw r = false := by simp [State.readsDraw, ha, hv]
  simp [State.readValue, hdraw, hv]

/-- A listed answer is the next one, and is used up (R41). -/
theorem State.nextDraw_dropDraw_of_cons {s : State} {v : Byte} {rest : List Byte} (h : s.inp.status = v :: rest) :
    s.nextDraw = v ∧ s.dropDraw.inp.status = rest := by
  simp [State.nextDraw, State.dropDraw, h]

/-- Settles O31: `memRead_eq` for the frame; a read of STATUS is `dropDraw` and an event. -/
theorem registerReadEffect : Obligations.RegisterReadEffect := by
  intro s r
  refine ⟨s.memRead_bus r, s.readValue_status, fun v => State.readValue_of_rf, ?_, fun v rest h => ?_, fun n => ?_⟩
  · obtain ⟨i, hi, hcmds, hreset⟩ := s.memRead_eq r
    exact ⟨i, by rw [hi]; rfl, hcmds, hreset⟩
  · rw [s.memRead_status]
    exact State.nextDraw_dropDraw_of_cons h
  · rw [s.memRead_status]
    exact drawAt_dropDraw s n

/-! ### The acceptance of a command -/

/-- What the outside will do is not changed by a command. -/
theorem exec_inp {i : Instr} {s t : State} (h : exec i s = .next t) : t.inp = s.inp := by
  obtain ⟨-, rfl⟩ | ⟨-, _, rfl⟩ | ⟨-, -, -, rfl⟩ | ⟨-, -, -, rfl⟩ | ⟨-, -, _, rfl, -⟩ | ⟨-, -, -, rfl⟩ |
    ⟨-, -, _, -, rfl⟩ := exec_next h <;> rfl

/-- Only EXTRACT changes TAKEN (R61). -/
theorem exec_taken {i : Instr} {s t : State} (h : exec i s = .next t) (hi : i ≠ .extract) : t.taken = s.taken := by
  obtain ⟨-, rfl⟩ | ⟨-, _, rfl⟩ | ⟨-, rfl, -⟩ | ⟨-, -, -, rfl⟩ | ⟨-, -, _, rfl, -⟩ | ⟨-, -, -, rfl⟩ |
    ⟨-, -, _, -, rfl⟩ := exec_next h
  case inr.inr.inl => exact absurd rfl hi
  all_goals rfl

/-- A command leaves the configuration, or it is a setter and stores into its own field (R65, R67, R68, R69). -/
theorem exec_cfg {i : Instr} {s t : State} (h : exec i s = .next t) :
    t.cfg = s.cfg ∨
    (∃ clockHz baud d, i = .setcb clockHz baud ∧ t.cfg = { s.cfg with clk := clockHz, div := d }) ∨
    (∃ v, i = .setsb v ∧ t.cfg = { s.cfg with stop := v }) ∨
    (∃ v, i = .setcs v ∧ t.cfg = { s.cfg with chsz := v }) ∨
    (∃ v, i = .setmd v ∧ t.cfg = { s.cfg with mode := v }) := by
  obtain ⟨-, rfl⟩ | ⟨-, _, rfl⟩ | ⟨-, -, -, rfl⟩ | ⟨-, -, -, rfl⟩ | ⟨-, -, c, rfl, hc⟩ | ⟨-, -, -, rfl⟩ |
    ⟨-, -, _, -, rfl⟩ := exec_next h
  case inr.inr.inr.inr.inl =>
    obtain ⟨clockHz, baud, d, hi, -, rfl⟩ | ⟨v, hi, -, rfl⟩ | ⟨v, hi, -, rfl⟩ | ⟨v, hi, -, rfl⟩ := hc
    · exact .inr (.inl ⟨clockHz, baud, d, hi, rfl⟩)
    · exact .inr (.inr (.inl ⟨v, hi, rfl⟩))
    · exact .inr (.inr (.inr (.inl ⟨v, hi, rfl⟩)))
    · exact .inr (.inr (.inr (.inr ⟨v, hi, rfl⟩)))
  all_goals exact .inl rfl

/-- Each field of the configuration is changed by its own setter only (R10). -/
theorem exec_cfg_frame {i : Instr} {s t : State} (h : exec i s = .next t) :
    ((∀ c b, i ≠ .setcb c b) → t.cfg.clk = s.cfg.clk ∧ t.cfg.div = s.cfg.div) ∧
    ((∀ v, i ≠ .setsb v) → t.cfg.stop = s.cfg.stop) ∧
    ((∀ v, i ≠ .setcs v) → t.cfg.chsz = s.cfg.chsz) ∧
    ((∀ v, i ≠ .setmd v) → t.cfg.mode = s.cfg.mode) := by
  obtain hc | ⟨_, _, _, rfl, hc⟩ | ⟨_, rfl, hc⟩ | ⟨_, rfl, hc⟩ | ⟨_, rfl, hc⟩ := exec_cfg h <;> simp [hc]

/-- Only COMMIT and TXB are commands that take more than their acceptance (R22). -/
theorem exec_seq {i : Instr} {s t : State} (h : exec i s = .next t) (hcommit : i ≠ .commit) (htxb : ∀ b, i ≠ .txb b) :
    t.seq = s.seq := by
  obtain ⟨-, rfl⟩ | ⟨ha, _, rfl⟩ | ⟨-, -, -, rfl⟩ | ⟨-, -, -, rfl⟩ | ⟨-, -, _, rfl, -⟩ | ⟨-, -, hi, -⟩ |
    ⟨-, -, b, hi, -⟩ := exec_next h
  case inr.inl => exact (s.accepts_iff.mp ha).2.symm
  case inr.inr.inr.inr.inr.inl => exact absurd hi hcommit
  case inr.inr.inr.inr.inr.inr => exact absurd hi (htxb b)
  all_goals rfl

/-- A command that changes HALT is a fatal error, which changes nothing else and gives no response (R86). -/
theorem exec_halt {i : Instr} {s t : State} (h : exec i s = .next t) :
    t.halt = s.halt ∨ s.halt = none ∧ t.taken = s.taken ∧ t.cfg = s.cfg ∧ t.seq = s.seq ∧ t.rsp = s.rsp := by
  obtain ⟨-, rfl⟩ | ⟨ha, _, rfl⟩ | ⟨-, -, -, rfl⟩ | ⟨-, -, -, rfl⟩ | ⟨-, -, _, rfl, -⟩ | ⟨-, -, -, rfl⟩ |
    ⟨-, -, _, -, rfl⟩ := exec_next h
  case inr.inl =>
    obtain ⟨hh, hs⟩ := s.accepts_iff.mp ha
    exact .inr ⟨hh, rfl, rfl, hs.symm, rfl⟩
  all_goals exact .inl rfl

/-- Settles O26: one lemma per field, each over the ways a command can be answered (`exec_next`). -/
theorem commandAcceptanceFrame : Obligations.CommandAcceptanceFrame := by
  intro s t i h
  obtain ⟨hmem, hphase, -⟩ := exec_frame h
  obtain ⟨hhw, hbus, htx⟩ := exec_hw_bus_tx h
  obtain ⟨hclkdiv, hstop, hchsz, hmode⟩ := exec_cfg_frame h
  exact ⟨fun a => by rw [hmem], hmem, hbus, htx, hhw, exec_inp h, hphase, exec_taken h, hclkdiv, hstop, hchsz, hmode,
    exec_seq h, exec_halt h⟩

/-! ### The four micro-steps of COMMIT -/

/-- COMMIT never writes DATA (R38). -/
theorem commitReg_ne_data (k : Fin 4) : commitReg k ≠ .data := by
  fin_cases k <;> decide

/-- In a block that R6 admits a write of any register but DATA puts out no byte (R31). -/
theorem State.memWrite_of_ne_data {s : State} (hw : s.hw.wf = true) {r : Reg} (hr : r ≠ .data) (v : Byte) :
    s.memWrite r v =
      { s with mem := s.mem.write (s.hw.addr r).toNat v, bus := s.bus ++ [.wr (s.hw.addr r) v] } := by
  rw [State.memWrite, if_neg (Params.addr_ne hw hr)]

/-- A micro-step of COMMIT in full (R71), for a block that R6 admits. -/
theorem commitStep_eq {s : State} (hw : s.hw.wf = true) (k : Fin 4) :
    commitStep k s =
      { s with
        mem := s.mem.write (s.hw.addr (commitReg k)).toNat (commitValue s.cfg k)
        bus := s.bus ++ [.wr (s.hw.addr (commitReg k)) (commitValue s.cfg k)]
        phase := if k = 3 then .initialized else s.phase
        seq := if k = 3 then .idle else .commit (k + 1)
        rsp := if k = 3 then s.rsp ++ [.ok] else s.rsp } := by
  rw [commitStep, State.memWrite_of_ne_data hw (commitReg_ne_data k)]
  split <;> rfl

/-- The block is inside COMMIT with `k` writes made, and no reset will come. -/
structure Committing (k : Fin 4) (s : State) : Prop where
  noReset : s.noReset = true
  halt : s.halt = none
  seq : s.seq = .commit k

theorem Committing.step {k : Fin 4} {s : State} (h : Committing k s) : step s = .next (commitStep k s.sampled) :=
  step_commit (noReset_step h.noReset).1 h.halt h.seq

/-- After each of the first three writes the block is still inside COMMIT (R71). -/
theorem Committing.succ {k : Fin 4} {s : State} (h : Committing k s) (hk : k ≠ 3) :
    Committing (k + 1) (commitStep k s.sampled) where
  noReset := by
    rw [State.noReset, commitStep_inp]
    exact (noReset_step h.noReset).2
  halt := (commitStep_halt k s.sampled).trans h.halt
  seq := by rw [commitStep_of_ne hk, State.setSeq_seq]

/-- The four micro-steps of COMMIT, one after the other (R71). -/
theorem Committing.steps_four {s : State} (h0 : Committing 0 s) :
    steps 4 s = .next (commitStep 3 (commitStep 2 (commitStep 1 (commitStep 0 s.sampled).sampled).sampled).sampled) := by
  have h1 : Committing 1 _ := h0.succ (by decide)
  have h2 : Committing 2 _ := h1.succ (by decide)
  have h3 : Committing 3 _ := h2.succ (by decide)
  simp only [steps, h0.step, h1.step, h2.step, h3.step]

/-- Settles O19: the acceptance is one step of `runCommand`, and the writes are those of `commitStep_eq`. -/
theorem commitWritesConfigurationInOrder : Obligations.CommitWritesConfigurationInOrder := by
  refine ⟨fun s hh hs hmisuse => ?_, fun s hw hr hh hs ht hp => ⟨?_, ?_⟩⟩
  · have hcfg : s.configurable = false := by
      rcases hmisuse with ht | hp
      · simp [State.configurable, ht]
      · simp [State.configurable, hp]
    rw [exec_commit, hcfg, runCommand_fatal (s.accepts_iff.mpr ⟨hh, hs⟩)]
    rfl
  · rw [exec_commit, s.configurable_iff.mpr ⟨ht, hp⟩, runCommand_admitted (s.accepts_iff.mpr ⟨hh, hs⟩)]
    rfl
  · have hcommitting : Committing 0 { s with seq := .commit 0 } := ⟨hr, hh, rfl⟩
    have hdrop : s.inp.reset.tail.tail.tail.tail = s.inp.reset.drop 4 := by simp only [← List.drop_one, List.drop_drop]
    rw [hcommitting.steps_four]
    simp [commitStep_eq, hw, hs, hdrop, State.sampled, State.setInp, commitReg, commitValue, frameByte]

/-! ### The micro-steps of TXB -/

/-- Settles O34: a poll is `step_txPoll`, the write of DATA one `memWrite`. -/
theorem txbMicroStepFrame : Obligations.TxbMicroStepFrame := by
  intro s t b hr hh hq h
  rcases hq with hq | hq
  · obtain ⟨i, hi, -, -⟩ := step_txPoll hr hh hq
    rw [hi] at h
    cases h
    exact ⟨fun _ => ⟨fun _ => rfl, rfl, rfl⟩, fun hw => by simp [hq] at hw, rfl, rfl, rfl, hh, rfl⟩
  · rw [step_txWrite hr hh hq] at h
    cases h
    exact ⟨fun hp => by simp [hq] at hp,
      fun _ => ⟨Memory.read_write_same _ _ _, fun _ ha => Memory.read_write_other _ _ ha⟩, rfl, rfl, rfl, hh, rfl⟩

/-! ### Runs of TXB -/

/-- One step before a run. -/
theorem steps_cons {s t : State} (h : step s = .next t) (n : Nat) : steps (n + 1) s = steps n t := by
  rw [steps, h]

/-- One step after a run. -/
theorem steps_snoc {n : Nat} {s t u : State} (h : steps n s = .next t) (hstep : step t = .next u) :
    steps (n + 1) s = .next u :=
  (steps_add n 1 h).trans (steps_cons hstep 0)

theorem advance_txPoll {s : State} {b : Byte} (hq : s.seq = .txPoll b) : advance s = txPollStep b s := by
  rw [advance, hq]

/-- The events of the next `n` polls (R41, R76). -/
def pollEvents (s : State) (n : Nat) : List BusEvent :=
  (List.range n).map fun m => .rd (s.hw.addr .status) (s.drawAt m)

theorem pollEvents_succ (s : State) (n : Nat) :
    pollEvents s (n + 1) = pollEvents s n ++ [.rd (s.hw.addr .status) (s.drawAt n)] := by
  simp [pollEvents, List.range_succ]

/-- The block after `n` polls, with what the outside will do then. -/
def State.polled (s : State) (n : Nat) (i : Inputs) : State :=
  { s with bus := s.bus ++ pollEvents s n, inp := i }

@[simp] theorem State.polled_hw (s : State) (n : Nat) (i : Inputs) : (s.polled n i).hw = s.hw := rfl

@[simp] theorem State.polled_seq (s : State) (n : Nat) (i : Inputs) : (s.polled n i).seq = s.seq := rfl

theorem State.polled_zero (s : State) : s.polled 0 s.inp = s := by
  simp [State.polled, pollEvents]

/-- One more poll is one more event. -/
theorem State.polled_logBus (s : State) (n : Nat) (i : Inputs) :
    (s.polled n i).logBus (.rd (s.hw.addr .status) (s.drawAt n)) = s.polled (n + 1) i := by
  simp [State.polled, State.logBus, pollEvents_succ]

/-- The block after a TXB of `b` that polled `n + 1` times. -/
def State.sent (s : State) (b : Byte) (n : Nat) (i : Inputs) : State :=
  { s with
    mem := s.mem.write (s.hw.addr .data).toNat b
    bus := s.bus ++ pollEvents s (n + 1) ++ [.wr (s.hw.addr .data) b]
    tx := s.tx ++ [b]
    seq := .idle
    rsp := s.rsp ++ [.ok]
    inp := i }

theorem State.setSeq_self {s : State} {q : Seq} (h : s.seq = q) : s.setSeq q = s := by
  subst h
  rfl

/-- What the outside will do after `n` reads of STATUS if no reset comes: the words at the port stay, and the answers move
`n` forward (R41). -/
structure AfterPolls (s : State) (n : Nat) (i : Inputs) : Prop where
  cmds : i.cmds = s.inp.cmds
  noReset : (s.setInp i).noReset = true
  draws : ∀ m, (s.setInp i).drawAt m = s.drawAt (m + n)

theorem AfterPolls.zero {s : State} (hr : s.noReset = true) : AfterPolls s 0 s.inp := ⟨rfl, hr, fun _ => rfl⟩

/-- A sample of the reset input takes no answer. -/
theorem AfterPolls.sample {s : State} {n : Nat} {i : Inputs} (h : AfterPolls s n i) :
    AfterPolls s n { i with reset := i.reset.tail } :=
  ⟨h.cmds, (noReset_step h.noReset).2, h.draws⟩

/-- A read of STATUS takes one answer (R41). -/
theorem AfterPolls.dropDraw {s : State} {n : Nat} {i : Inputs} (h : AfterPolls s n i) :
    ∃ j, (s.polled n i).dropDraw = s.polled n j ∧ AfterPolls s (n + 1) j := by
  obtain ⟨j, hj, hcmds, hreset⟩ := (s.polled n i).dropDraw_eq
  refine ⟨j, hj, hcmds.trans h.cmds, ?_, fun m => ?_⟩
  · rw [State.noReset, State.setInp_inp, hreset]
    exact h.noReset
  · calc (s.setInp j).drawAt m = (s.polled n i).dropDraw.drawAt m := by rw [hj]; rfl
      _ = (s.setInp i).drawAt (m + 1) := drawAt_dropDraw _ m
      _ = s.drawAt (m + (n + 1)) := by rw [h.draws, Nat.add_right_comm, Nat.add_assoc]

/-- The answer the next poll reads (R41). -/
theorem AfterPolls.nextDraw {s : State} {n : Nat} {i : Inputs} (h : AfterPolls s n i) :
    (s.polled n i).nextDraw = s.drawAt n := by
  rw [nextDraw_eq]
  exact (h.draws 0).trans (by rw [Nat.zero_add])

/-- One more poll: SEQ goes on to the write exactly where the answer is ready (R75, R76). -/
theorem AfterPolls.step {s : State} {b : Byte} {n : Nat} {i : Inputs} (h : AfterPolls s n i) (hh : s.halt = none)
    (hq : s.seq = .txPoll b) :
    ∃ j, step (s.polled n i) = .next
        ((s.polled (n + 1) j).setSeq (if ready s.hw (s.drawAt n) then .txWrite b else .txPoll b)) ∧
      AfterPolls s (n + 1) j := by
  have hr : (s.polled n i).resetAsserted = false := (noReset_step h.noReset).1
  obtain ⟨j, hj, hafter⟩ := h.sample.dropDraw
  have hsampled : (s.polled n i).sampled = s.polled n { i with reset := i.reset.tail } := rfl
  refine ⟨j, ?_, hafter⟩
  rw [step_busy hr hh (by simp [hq]), hsampled, advance_txPoll ((s.polled_seq _ _).trans hq), txPollStep,
    State.memRead_status, State.readValue_status, hj, h.sample.nextDraw]
  exact congrArg (fun t => Host.Outcome.next (State.setSeq t _)) (s.polled_logBus n j)

/-- While the answers are not ready the run polls on (R76, R78). -/
theorem steps_poll_notReady {s : State} {b : Byte} {n : Nat} (hr : s.noReset = true) (hh : s.halt = none)
    (hq : s.seq = .txPoll b) (hn : ∀ m, m < n → ready s.hw (s.drawAt m) = false) :
    ∃ i, steps n s = .next (s.polled n i) ∧ AfterPolls s n i := by
  induction n with
  | zero => exact ⟨s.inp, by rw [s.polled_zero, steps], .zero hr⟩
  | succ n ih =>
    obtain ⟨i, hi, hafter⟩ := ih fun m hm => hn m (by omega)
    obtain ⟨j, hj, hafter'⟩ := hafter.step hh hq
    rw [hn n (by omega), if_neg Bool.false_ne_true, State.setSeq_self ((s.polled_seq _ _).trans hq)] at hj
    exact ⟨j, steps_snoc hi hj, hafter'⟩

/-- At the first ready answer the run is about to write DATA (R76, R78). -/
theorem steps_poll_ready {s : State} {b : Byte} {n : Nat} (hr : s.noReset = true) (hh : s.halt = none)
    (hq : s.seq = .txPoll b) (hn : ∀ m, m < n → ready s.hw (s.drawAt m) = false) (hv : ready s.hw (s.drawAt n) = true) :
    ∃ i, steps (n + 1) s = .next ((s.polled (n + 1) i).setSeq (.txWrite b)) ∧ AfterPolls s (n + 1) i := by
  obtain ⟨i, hi, hafter⟩ := steps_poll_notReady hr hh hq hn
  obtain ⟨j, hj, hafter'⟩ := hafter.step hh hq
  rw [hv, if_pos rfl] at hj
  exact ⟨j, steps_snoc hi hj, hafter'⟩

/-- A TXB from its first poll to its end, where the (n+1)-th coming answer is the first ready one (R76, R78). -/
theorem steps_txb {s : State} {b : Byte} {n : Nat} (hr : s.noReset = true) (hh : s.halt = none)
    (hq : s.seq = .txPoll b) (hn : ∀ m, m < n → ready s.hw (s.drawAt m) = false) (hv : ready s.hw (s.drawAt n) = true) :
    ∃ i, steps (n + 2) s = .next (s.sent b n i) ∧ AfterPolls s (n + 1) i := by
  obtain ⟨i, hi, hafter⟩ := steps_poll_ready hr hh hq hn hv
  obtain ⟨-, -, hwrite⟩ := txbPollsThenWrites
  have hlast := hwrite ((s.polled (n + 1) i).setSeq (.txWrite b)) b (noReset_step hafter.noReset).1 hh rfl
  exact ⟨_, steps_snoc hi hlast, hafter.sample⟩

/-! ### Runs of TXS -/

/-- The word of a TXB is read back as that TXB (R52). -/
theorem decode_encode_txb (b : Byte) : decode (encode (.txb b)) = .ok (.txb b) := by
  simp [decode, decodeShape, encode, opcode, operandA, operandB, shapeS, Instr.reserved]

/-- The word of a TXB at the port of a block that transmits is taken and accepted (R22, R88). -/
theorem step_txbWord {s : State} {b : Byte} {rest : List CommandWord} (hr : s.resetAsserted = false) (hh : s.halt = none)
    (hs : s.seq = .idle) (ht : s.taken = true) (hp : s.phase = .initialized)
    (hc : s.inp.cmds = encode (.txb b) :: rest) : step s = .next (s.sampled.taking.setSeq (.txPoll b)) := by
  obtain ⟨haccept, -, -⟩ := txbPollsThenWrites
  rw [step_accepting hr hh hs, acceptCommand_ok (s := s.sampled) hc (decode_encode_txb b)]
  exact haccept s.sampled.taking b hh hs ht hp

/-- The same, to the end of its TXB, where the (n+1)-th coming answer is the first ready one (R76, R78). -/
theorem steps_txbWord {s : State} {b : Byte} {rest : List CommandWord} {n : Nat} (hr : s.noReset = true)
    (hh : s.halt = none) (hs : s.seq = .idle) (ht : s.taken = true) (hp : s.phase = .initialized)
    (hc : s.inp.cmds = encode (.txb b) :: rest) (hn : ∀ m, m < n → ready s.hw (s.drawAt m) = false)
    (hv : ready s.hw (s.drawAt n) = true) :
    ∃ i, steps (n + 3) s = .next (s.sent b n i) ∧ AfterPolls s.taking (n + 1) i := by
  obtain ⟨hr0, hrs⟩ := noReset_step hr
  obtain ⟨i, hi, hafter⟩ := steps_txb (s := s.sampled.taking.setSeq (.txPoll b)) hrs hh rfl hn hv
  exact ⟨i, (steps_cons (step_txbWord hr0 hh hs ht hp hc) _).trans hi, hafter.cmds, hafter.noReset, hafter.draws⟩

/-- Where at least `k + 1` of the first `m` values are true there is a first true one, and `k` come after it. -/
theorem exists_first_of_lt_countP (m : Nat) {k : Nat} {f : Nat → Bool} (h : k + 1 ≤ (List.range m).countP f) :
    ∃ n, (∀ j, j < n → f j = false) ∧ f n = true ∧ ∃ l, k ≤ (List.range l).countP fun j => f (j + (n + 1)) := by
  induction m generalizing f with
  | zero => simp at h
  | succ m ih =>
    rw [List.range_succ_eq_map, List.countP_cons, List.countP_map] at h
    cases h0 : f 0 with
    | true =>
      rw [h0, if_pos rfl] at h
      exact ⟨0, fun _ hj => absurd hj (Nat.not_lt_zero _), h0, m, Nat.le_of_succ_le_succ h⟩
    | false =>
      simp only [h0] at h
      obtain ⟨n, hbefore, hn, l, hl⟩ := ih h
      refine ⟨n + 1, fun j hj => ?_, hn, l, hl⟩
      cases j with
      | zero => exact h0
      | succ j => exact hbefore j (by omega)

/-- The premise of R78 for one TXB more: its first ready answer, and the premise for what comes after. -/
theorem PeripheralReadyTimes.first {s : State} {k : Nat} (h : PeripheralReadyTimes (k + 1) s) :
    ∃ n, (∀ m, m < n → ready s.hw (s.drawAt m) = false) ∧ ready s.hw (s.drawAt n) = true ∧
      ∀ t : State, t.hw = s.hw → (∀ m, t.drawAt m = s.drawAt (m + (n + 1))) → PeripheralReadyTimes k t := by
  obtain ⟨m, hm⟩ := h
  rw [List.countP_map] at hm
  obtain ⟨n, hbefore, hn, l, hl⟩ := exists_first_of_lt_countP m hm
  refine ⟨n, hbefore, hn, fun t hhw hdraws => ⟨l, ?_⟩⟩
  rw [hhw, funext hdraws, List.countP_map]
  exact hl

/-- The events of one byte more: its polls and its write (R77). -/
theorem txsEvents_cons {s : State} {b : Byte} {bs : List Byte} {events : List BusEvent} {n : Nat}
    (hn : ∀ m, m < n → ready s.hw (s.drawAt m) = false) (hv : ready s.hw (s.drawAt n) = true)
    (h : TxsEvents s.hw bs events) :
    TxsEvents s.hw (b :: bs) (pollEvents s (n + 1) ++ [.wr (s.hw.addr .data) b] ++ events) := by
  refine ⟨(List.range n).map s.drawAt, s.drawAt n, events, ?_, hv, ?_, h⟩
  · simpa using hn
  · simp [pollEvents, List.range_succ]

/-- Settles O37, by induction on the bytes: the word of each is one run of `steps_txbWord`. -/
theorem txsSendsBytesInOrder : Obligations.TxsSendsBytesInOrder := by
  intro s bytes
  induction bytes generalizing s with
  | nil =>
    intro rest _ hh hs _ hp hc _
    exact ⟨0, s, [], rfl, hs, hh, hp, hc, by simp, rfl, by simp, by simp, rfl, fun _ => rfl⟩
  | cons b bs ih =>
    intro rest hr hh hs ht hp hc hready
    obtain ⟨n, hn, hv, hlater⟩ := hready.first
    obtain ⟨i, hi, hafter⟩ := steps_txbWord hr hh hs ht hp hc hn hv
    have hcmds : i.cmds = txsWords bs ++ rest := by rw [hafter.cmds, State.taking_inp, hc]; rfl
    obtain ⟨n', t, events, ht', hseq, hhalt, hphase, hrest, hbus, hevents, htx, hrsp, hcfg, -⟩ :=
      ih (s.sent b n i) rest hafter.noReset hh rfl ht hp hcmds (hlater _ rfl hafter.draws)
    refine ⟨n + 3 + n', t, pollEvents s (n + 1) ++ [.wr (s.hw.addr .data) b] ++ events,
      (steps_add _ n' hi).trans ht', hseq, hhalt, hphase, hrest, ?_, txsEvents_cons hn hv hevents, ?_, ?_, hcfg,
      fun h => nomatch h⟩
    · simp [hbus, State.sent]
    · simp [htx, State.sent]
    · simp [hrsp, State.sent, List.replicate_succ]

/-! ### The registers in Initialized -/

/-- After COMMIT an event writes DATA or nothing (R39 (c), R76). -/
theorem TxPlace.store_of_after {hw : Params} {p q : TxPlace} {e : BusEvent} (h : p.after hw e = some q) {a : Byte}
    (ha : a ≠ hw.addr .data) (held : Option Byte) : e.store a held = held := by
  cases e with
  | rd b v => rfl
  | wr b v =>
    cases p with
    | between => nomatch h
    | polling => nomatch h
    | polled =>
      have hb : b = hw.addr .data := by
        by_contra hb
        simp [TxPlace.after, hb] at h
      exact if_neg fun hba => ha (hba.symm.trans hb)

/-- Transmissions leave every register but DATA (R42, R76). -/
theorem lastWrite_append_of_txPlace {hw : Params} {events : List BusEvent} {p : TxPlace}
    (h : txPlace hw events = some p) {a : Byte} (ha : a ≠ hw.addr .data) (bus : List BusEvent) :
    lastWrite a (bus ++ events) = lastWrite a bus := by
  induction events using List.reverseRecOn generalizing p with
  | nil => rw [List.append_nil]
  | append_singleton events e ih =>
    rw [txPlace_append, Option.bind_eq_some_iff] at h
    obtain ⟨q, hq, hafter⟩ := h
    rw [← List.append_assoc, lastWrite_append, ih hq, TxPlace.store_of_after hafter ha]

/-- What the four writes of COMMIT leave in each register (R71, R72). -/
theorem lastWrite_commitEvents {hw : Params} (h : hw.wf = true) (c : Cfg) :
    lastWrite (hw.addr .baudl) (commitEvents hw c) = some (divLow c.div) ∧
    lastWrite (hw.addr .baudh) (commitEvents hw c) = some (divHigh c.div) ∧
    lastWrite (hw.addr .frame) (commitEvents hw c) = some (c.stop ||| c.chsz) ∧
    lastWrite (hw.addr .modereg) (commitEvents hw c) = some c.mode ∧
    lastWrite (hw.addr .status) (commitEvents hw c) = none := by
  simp [lastWrite, commitEvents, BusEvent.store, Params.addr_ne h]

/-- Settles O42: a register holds its last write, and after COMMIT only DATA is written. -/
theorem initializedRegistersReflectConfiguration : Obligations.InitializedRegistersReflectConfiguration := by
  intro s hinv h hp
  obtain ⟨events, p, hbus, hplace, -⟩ := h.after hp
  have hrf : ∀ r, r ≠ .data → s.rf r = lastWrite (s.hw.addr r) (commitEvents s.hw s.cfg) := by
    intro r hr
    rw [h.storage r, hbus, lastWrite_append_of_txPlace hplace (Params.addr_ne hinv.params hr)]
  obtain ⟨hbaudl, hbaudh, hframe, hmode, hstatus⟩ := lastWrite_commitEvents hinv.params s.cfg
  exact ⟨(hrf _ (by decide)).trans hbaudl, (hrf _ (by decide)).trans hbaudh, (hrf _ (by decide)).trans hframe,
    (hrf _ (by decide)).trans hmode, (hrf _ (by decide)).trans hstatus⟩

end Sys2Proof.Machine

/-! The command word (R50, R51, R52, R56): encoder and decoder are inverse to each other on the well-formed commands, the
words that decode are those of the table of R52, and every other word is refused under the name of its kind. Then which
steps give a response (R57). -/

namespace Sys2Proof.Machine

/-! ### Encoder and decoder -/

/-- A word that fits no shape is reserved (R56 (a), (b)). -/
theorem decode_of_shape_error {w : CommandWord} {why : Reserved} (h : decodeShape w = .error why) :
    decode w = .error why := by
  rw [decode, h]

/-- The shapes read every command back from its word, whatever its operands (R50, R51). -/
theorem decodeShape_encode (i : Instr) : decodeShape (encode i) = .ok i := by
  cases i <;> simp [decodeShape, encode, opcode, operandA, operandB, shapeN, shapeAB, shapeS]

theorem decode_encode {i : Instr} (h : i.reserved = none) : decode (encode i) = .ok i := by
  simp [decode, decodeShape_encode, h]

/-- The word of a command with operands of R56 (c), (d) is reserved for the reason its operands are. -/
theorem decode_encode_reserved {i : Instr} {why : Reserved} (h : i.reserved = some why) :
    decode (encode i) = .error why := by
  simp [decode, decodeShape_encode, h]

/-- In shape N no bit of the operands is ignored (R50). -/
theorem encode_of_shapeN {w : CommandWord} {i j : Instr} (h : shapeN w j = .ok i)
    (hj : encode j = packWord (opField w) 0 0) : encode i = w := by
  obtain ⟨ha, hb, rfl⟩ := shapeN_ok h
  calc encode i = packWord (opField w) (aField w) (bField w) := by rw [hj, ha, hb]
    _ = w := packWord_fields w

/-- In shape S no bit of the operands is ignored (R50, R51). -/
theorem encode_of_shapeS {w : CommandWord} {i : Instr} {mk : Byte → Instr} (h : shapeS w mk = .ok i)
    (hmk : ∀ v, encode (mk v) = packWord (opField w) 0 (v.setWidth 32)) : encode i = w := by
  obtain ⟨ha, hb, rfl⟩ := shapeS_ok h
  calc encode (mk (bValue w)) = packWord (opField w) (aField w) (bField w) := by rw [hmk, ha, bValue_setWidth hb]
    _ = w := packWord_fields w

/-- In shape AB every bit of the operands is read (R50). -/
theorem encode_of_shapeAB {w : CommandWord} {i : Instr} {mk : Operand → Operand → Instr} (h : shapeAB w mk = .ok i)
    (hmk : ∀ a b, encode (mk a b) = packWord (opField w) a b) : encode i = w := by
  obtain rfl := shapeAB_ok h
  exact (hmk _ _).trans (packWord_fields w)

theorem encode_of_decodeShape {w : CommandWord} {i : Instr} (h : decodeShape w = .ok i) : encode i = w := by
  unfold decodeShape at h
  repeat' split at h
  next hop => exact encode_of_shapeN h (hop ▸ rfl)
  next hop => exact encode_of_shapeN h (hop ▸ rfl)
  next hop => exact encode_of_shapeAB h (fun _ _ => hop ▸ rfl)
  next hop => exact encode_of_shapeS h (fun _ => hop ▸ rfl)
  next hop => exact encode_of_shapeS h (fun _ => hop ▸ rfl)
  next hop => exact encode_of_shapeS h (fun _ => hop ▸ rfl)
  next hop => exact encode_of_shapeN h (hop ▸ rfl)
  next hop => exact encode_of_shapeS h (fun _ => hop ▸ rfl)
  next => nomatch h

/-- Settles O2: the shapes read every command back, and a well-formed one is not reserved. -/
theorem decodeOfEncodeIsIdentity : Obligations.DecodeOfEncodeIsIdentity :=
  fun _ hwf => decode_encode (Option.isNone_iff_eq_none.mp hwf)

/-- Settles O3: each shape fixes every bit of the word, and the decoder answers with unreserved commands only. -/
theorem encodeOfDecodeIsIdentity : Obligations.EncodeOfDecodeIsIdentity := by
  intro w i h
  obtain ⟨hshape, -⟩ := decode_ok h
  exact ⟨encode_of_decodeShape hshape, decode_wellFormed h⟩

/-- Settles O1: each is the word of a well-formed command. -/
theorem writtenWordsDecode : Obligations.WrittenWordsDecode :=
  ⟨decode_encode (i := .extract) rfl, decode_encode (i := .takeover) rfl, decode_encode (i := .setcb 16000000 9600) rfl,
    decode_encode (i := .setsb 8) rfl, decode_encode (i := .setcs 6) rfl, decode_encode (i := .setmd 24) rfl,
    decode_encode (i := .commit) rfl, decode_encode (i := .txb 0x41) rfl⟩

/-! ### The words of R52 as numbers -/

theorem toNat_packWord (op : Byte) (a b : Operand) :
    (packWord op a b).toNat = op.toNat * 2 ^ 64 + a.toNat * 2 ^ 32 + b.toNat := by
  rw [packWord, BitVec.toNat_append, BitVec.toNat_append, ← Nat.shiftLeft_add_eq_or_of_lt a.isLt,
    ← Nat.shiftLeft_add_eq_or_of_lt b.isLt, Nat.shiftLeft_eq, Nat.shiftLeft_eq]
  omega

theorem toNat_encode_setcb (clockHz baud : Operand) :
    (encode (.setcb clockHz baud)).toNat = 0x10 * 2 ^ 64 + clockHz.toNat * 2 ^ 32 + baud.toNat :=
  toNat_packWord _ _ _

theorem toNat_encode_txb (b : Byte) : (encode (.txb b)).toNat = 0x20 * 2 ^ 64 + b.toNat := by
  have hop : (opcode (.txb b)).toNat = 0x20 := rfl
  have ha : (operandA (.txb b)).toNat = 0 := rfl
  have hb : (operandB (.txb b)).toNat = b.toNat := BitVec.toNat_setWidth_of_le (by decide)
  rw [encode, toNat_packWord, hop, ha, hb, Nat.zero_mul, Nat.add_zero]

/-- OP and B of a word as numbers (R50). -/
theorem toNat_opField_bField (w : CommandWord) :
    (opField w).toNat = w.toNat / 2 ^ 64 ∧ (bField w).toNat = w.toNat % 2 ^ 32 := by
  have hw := toNat_packWord (opField w) (aField w) (bField w)
  rw [packWord_fields] at hw
  omega

/-- The words of SETCB are those with its opcode and B not 0, whatever A is (R52, R56 (d)). -/
theorem setcbWord_iff (w : CommandWord) :
    (w.toNat / 2 ^ 64 = 0x10 ∧ w.toNat % 2 ^ 32 ≠ 0) ↔ ∃ clockHz baud, baud ≠ 0 ∧ encode (.setcb clockHz baud) = w := by
  constructor
  · rintro ⟨hop, hb⟩
    obtain ⟨hopField, hbField⟩ := toNat_opField_bField w
    have hsetcb : opField w = 0x10 := BitVec.eq_of_toNat_eq (hopField.trans hop)
    refine ⟨aField w, bField w, fun hzero => hb ?_, ?_⟩
    · rw [← hbField, hzero]
      rfl
    · rw [encode, opcode, ← hsetcb]
      exact packWord_fields w
  · rintro ⟨clockHz, baud, hbaud, rfl⟩
    have hpos : baud.toNat ≠ 0 := fun h => hbaud (BitVec.eq_of_toNat_eq h)
    rw [toNat_encode_setcb]
    omega

/-- The words of TXB are the 256 from its opcode with operands 0 on (R52). -/
theorem txbWord_iff (w : CommandWord) :
    (0x200000000000000000 ≤ w.toNat ∧ w.toNat ≤ 0x2000000000000000FF) ↔ ∃ b, encode (.txb b) = w := by
  constructor
  · rintro ⟨hlo, hhi⟩
    refine ⟨BitVec.ofNat 8 (w.toNat % 2 ^ 64), BitVec.eq_of_toNat_eq ?_⟩
    rw [toNat_encode_txb, BitVec.toNat_ofNat]
    omega
  · rintro ⟨b, rfl⟩
    rw [toNat_encode_txb]
    omega

/-! ### The operands of R56 (c), (d) -/

theorem reserved_setcb_zero (clockHz : Operand) : (Instr.setcb clockHz 0).reserved = some .zeroBaud := rfl

theorem reserved_setsb {v : Byte} (h : v ∉ ([0, 8] : List Byte)) : (Instr.setsb v).reserved = some .stopValue :=
  if_neg (mt (legalStop_iff v).mp h)

theorem reserved_setcs {v : Byte} (h : v ∉ ([0, 2, 4, 6] : List Byte)) : (Instr.setcs v).reserved = some .chszValue :=
  if_neg (mt (legalChsz_iff v).mp h)

theorem reserved_setmd {v : Byte} (h : v ∉ ([0, 8, 16, 24] : List Byte)) :
    (Instr.setmd v).reserved = some .modeValue :=
  if_neg (mt (legalMode_iff v).mp h)

/-! ### The legal words -/

/-- The word of an unreserved command fits its pattern of R52. -/
theorem legalWord_encode {i : Instr} (hi : i.reserved = none) : LegalWord (encode i) := by
  unfold LegalWord
  cases i with
  | extract => decide
  | takeover => decide
  | setcb clockHz baud =>
    have hbaud : baud ≠ 0 := by
      rintro rfl
      nomatch hi.symm.trans (reserved_setcb_zero clockHz)
    exact .inr (.inr (.inl ((setcbWord_iff _).mpr ⟨clockHz, baud, hbaud, rfl⟩)))
  | setsb v =>
    have hv : v ∈ ([0, 8] : List Byte) := by_contra fun hv => nomatch hi.symm.trans (reserved_setsb hv)
    fin_cases hv <;> decide
  | setcs v =>
    have hv : v ∈ ([0, 2, 4, 6] : List Byte) := by_contra fun hv => nomatch hi.symm.trans (reserved_setcs hv)
    fin_cases hv <;> decide
  | setmd v =>
    have hv : v ∈ ([0, 8, 16, 24] : List Byte) := by_contra fun hv => nomatch hi.symm.trans (reserved_setmd hv)
    fin_cases hv <;> decide
  | commit => decide
  | txb b => simp only [(txbWord_iff _).mpr ⟨b, rfl⟩, and_self, or_true]

/-- Each pattern of R52 is the word of an unreserved command. -/
theorem exists_encode_of_legalWord {w : CommandWord} (h : LegalWord w) :
    ∃ i : Instr, i.reserved = none ∧ encode i = w := by
  rw [LegalWord, setcbWord_iff, txbWord_iff] at h
  obtain rfl | rfl | ⟨clockHz, baud, hbaud, rfl⟩ | rfl | rfl | rfl | rfl | rfl | rfl | rfl | rfl | rfl | rfl | rfl |
    ⟨b, rfl⟩ := h
  exacts [⟨.extract, rfl, rfl⟩, ⟨.takeover, rfl, rfl⟩, ⟨.setcb clockHz baud, if_neg hbaud, rfl⟩,
    ⟨.setsb 0, rfl, rfl⟩, ⟨.setsb 8, rfl, rfl⟩, ⟨.setcs 0, rfl, rfl⟩, ⟨.setcs 2, rfl, rfl⟩, ⟨.setcs 4, rfl, rfl⟩,
    ⟨.setcs 6, rfl, rfl⟩, ⟨.setmd 0, rfl, rfl⟩, ⟨.setmd 8, rfl, rfl⟩, ⟨.setmd 16, rfl, rfl⟩, ⟨.setmd 24, rfl, rfl⟩,
    ⟨.commit, rfl, rfl⟩, ⟨.txb b, rfl, rfl⟩]

/-- The decoder answers exactly on the words of R52. -/
theorem legalWord_iff_decode (w : CommandWord) : LegalWord w ↔ ∃ i, decode w = .ok i := by
  constructor
  · intro h
    obtain ⟨i, hi, rfl⟩ := exists_encode_of_legalWord h
    exact ⟨i, decode_encode hi⟩
  · rintro ⟨i, h⟩
    obtain ⟨hshape, hi⟩ := decode_ok h
    exact encode_of_decodeShape hshape ▸ legalWord_encode hi

/-- Settles O4: a word that is not legal decodes to a reason, and the port refuses it with that reason. -/
theorem reservedWordsAreRefused : Obligations.ReservedWordsAreRefused := by
  refine ⟨legalWord_iff_decode, fun s w rest hr hh hs hc hw => ?_⟩
  cases hd : decode w with
  | ok i => exact absurd ((legalWord_iff_decode w).mpr ⟨i, hd⟩) hw
  | error why => exact ⟨why, by rw [step_accepting hr hh hs, acceptCommand_reserved (s := s.sampled) hc hd]⟩

/-! ### The kinds of reserved word -/

theorem decodeShape_of_unknown_opcode {w : CommandWord}
    (h : opField w ∉ ([0x01, 0x02, 0x10, 0x11, 0x12, 0x13, 0x1F, 0x20] : List Byte)) :
    decodeShape w = .error .opcode := by
  simp only [List.mem_cons, List.not_mem_nil, or_false, not_or] at h
  simp only [decodeShape, h, if_false]

/-- EXTRACT, TAKEOVER and COMMIT have shape N (R52). -/
theorem decodeShape_eq_shapeN {w : CommandWord} (h : opField w ∈ ([0x01, 0x02, 0x1F] : List Byte)) :
    ∃ i, decodeShape w = shapeN w i := by
  simp only [List.mem_cons, List.not_mem_nil, or_false] at h
  obtain h | h | h := h
  exacts [⟨.extract, by simp [decodeShape, h]⟩, ⟨.takeover, by simp [decodeShape, h]⟩, ⟨.commit, by simp [decodeShape, h]⟩]

/-- SETSB, SETCS, SETMD and TXB have shape S (R52). -/
theorem decodeShape_eq_shapeS {w : CommandWord} (h : opField w ∈ ([0x11, 0x12, 0x13, 0x20] : List Byte)) :
    ∃ mk, decodeShape w = shapeS w mk := by
  simp only [List.mem_cons, List.not_mem_nil, or_false] at h
  obtain h | h | h | h := h
  exacts [⟨.setsb, by simp [decodeShape, h]⟩, ⟨.setcs, by simp [decodeShape, h]⟩, ⟨.setmd, by simp [decodeShape, h]⟩,
    ⟨.txb, by simp [decodeShape, h]⟩]

/-- `bUnused` is B without its low byte (R50). -/
theorem bUnused_ne_zero {w : CommandWord} (h : bField w >>> 8 ≠ 0) : bUnused w ≠ 0 := by
  intro hu
  apply h
  apply BitVec.eq_of_toNat_eq
  rw [← bValue_setWidth hu, BitVec.toNat_ushiftRight, BitVec.toNat_setWidth_of_le (by decide)]
  exact Nat.shiftRight_eq_zero _ _ (bValue w).isLt

/-- Settles O5: which shape an opcode has, what each shape refuses, and the reserved operands. -/
theorem reservedWordsByKind : Obligations.ReservedWordsByKind := by
  refine ⟨fun w hop => decode_of_shape_error (decodeShape_of_unknown_opcode hop), fun w hop ha => ?_,
    fun w hop ha hb => ?_, fun w hop ha hb => ?_, fun v hv => decode_encode_reserved (reserved_setsb hv),
    fun v hv => decode_encode_reserved (reserved_setcs hv), fun v hv => decode_encode_reserved (reserved_setmd hv),
    fun clockHz => decode_encode_reserved (reserved_setcb_zero clockHz)⟩
  · obtain hN | hS : opField w ∈ ([0x01, 0x02, 0x1F] : List Byte) ∨ opField w ∈ ([0x11, 0x12, 0x13, 0x20] : List Byte) :=
      List.mem_append.mp hop
    · obtain ⟨i, hi⟩ := decodeShape_eq_shapeN hN
      exact decode_of_shape_error (hi.trans (if_pos ha))
    · obtain ⟨mk, hmk⟩ := decodeShape_eq_shapeS hS
      exact decode_of_shape_error (hmk.trans (if_pos ha))
  · obtain ⟨i, hi⟩ := decodeShape_eq_shapeN hop
    exact decode_of_shape_error (hi.trans ((if_neg (not_not.mpr ha)).trans (if_pos hb)))
  · obtain ⟨mk, hmk⟩ := decodeShape_eq_shapeS hop
    exact decode_of_shape_error (hmk.trans ((if_neg (not_not.mpr ha)).trans (if_pos (bUnused_ne_zero hb))))

/-! ### Reserved operands at the meanings -/

/-- A command with reserved operands is refused where it is accepted, admitted or not (R85 item 2). -/
theorem runCommand_reserved {why : Reserved} {admitted : Bool} {c : Cause} {effect : State → State} {s : State}
    (hs : s.accepts = true) : runCommand (some why) admitted c effect s = .refused (.reservedWord why) := by
  simp [runCommand, hs]

/-- Settles O6: each setter checks its operands before its lifecycle state. -/
theorem illFormedCommandsAreRefused : Obligations.IllFormedCommandsAreRefused := by
  intro s hh hs
  have ha : s.accepts = true := s.accepts_iff.mpr ⟨hh, hs⟩
  refine ⟨fun clockHz => ?_, fun v hv => ?_, fun v hv => ?_, fun v hv => ?_⟩
  · rw [exec_setcb, reserved_setcb_zero, runCommand_reserved ha]
  · rw [exec_setsb, reserved_setsb hv, runCommand_reserved ha]
  · rw [exec_setcs, reserved_setcs hv, runCommand_reserved ha]
  · rw [exec_setmd, reserved_setmd hv, runCommand_reserved ha]

/-! ### Responses -/

/-- A presented command gives no response, or one that ends it, the fatal errors none (R57, R86). -/
theorem exec_rsp {i : Instr} {s t : State} (h : exec i s = .next t) :
    t.rsp = s.rsp ∨ ∃ r, t.rsp = s.rsp ++ [r] ∧ t.seq = .idle ∧ t.halt = none := by
  obtain ⟨-, rfl⟩ | ⟨-, _, rfl⟩ | ⟨ha, -, -, rfl⟩ | ⟨ha, -, -, rfl⟩ | ⟨ha, -, _, rfl, -⟩ | ⟨-, -, -, rfl⟩ |
    ⟨-, -, _, -, rfl⟩ := exec_next h
  case inr.inr.inl | inr.inr.inr.inl | inr.inr.inr.inr.inl =>
    obtain ⟨hh, hs⟩ := s.accepts_iff.mp ha
    exact .inr ⟨_, rfl, hs, hh⟩
  all_goals exact .inl rfl

/-- A step that is not a reset gives no response and leaves a command in progress going on, or it gives one response and
ends its command, and then the response of a command in progress is OK (R57, R71, R76). -/
theorem step_rsp {s t : State} (hr : s.resetAsserted = false) (h : step s = .next t) :
    (t.rsp = s.rsp ∧ (s.seq ≠ .idle → s.halt = none → t.seq ≠ .idle)) ∨
    ∃ r, t.rsp = s.rsp ++ [r] ∧ t.seq = .idle ∧ t.halt = none ∧ (s.seq ≠ .idle → r = .ok) := by
  obtain ⟨hr', -⟩ | ⟨-, hh, rfl⟩ | ⟨-, -, hs, -, rfl⟩ | ⟨-, -, hs, _, _, i, -, -, he⟩ | ⟨-, hh, k, -, rfl⟩ |
    ⟨-, -, b, -, rfl⟩ | ⟨-, hh, b, -, rfl⟩ := step_next h
  · simp [hr] at hr'
  · exact .inl ⟨rfl, fun _ hn => by simp [hn] at hh⟩
  · exact .inl ⟨rfl, fun hbusy => absurd hs hbusy⟩
  · obtain hrsp | ⟨r, hrsp, hseq, hhalt⟩ := exec_rsp he
    · exact .inl ⟨hrsp, fun hbusy => absurd hs hbusy⟩
    · exact .inr ⟨r, hrsp, hseq, hhalt, fun hbusy => absurd hs hbusy⟩
  · by_cases hk : k = 3
    · subst hk
      exact .inr ⟨.ok, rfl, rfl, hh, fun _ => rfl⟩
    · rw [commitStep_of_ne hk]
      exact .inl ⟨rfl, fun _ _ => Seq.noConfusion⟩
  · obtain ⟨i, hi, -, -⟩ := txPollStep_eq b s.sampled
    rw [hi]
    refine .inl ⟨rfl, fun _ _ => ?_⟩
    rw [State.setSeq_seq]
    split <;> simp
  · exact .inr ⟨.ok, rfl, rfl, hh, fun _ => rfl⟩

/-- Settles O25: the codes by definition, and the two ways of `step_rsp`. -/
theorem responsesOnCompletionOnly : Obligations.ResponsesOnCompletionOnly := by
  refine ⟨⟨rfl, rfl, rfl, rfl⟩, fun s t hr h => ?_⟩
  obtain ⟨hrsp, hgoing⟩ | ⟨r, hrsp, hseq, hhalt, hok⟩ := step_rsp hr h
  · exact ⟨.inl hrsp, fun _ _ => hrsp, fun hbusy hh hidle => absurd hidle (hgoing hbusy hh)⟩
  · exact ⟨.inr ⟨r, hrsp, hseq, hhalt⟩, fun _ hfatal => absurd hhalt hfatal, fun hbusy _ _ => hok hbusy ▸ hrsp⟩

end Sys2Proof.Machine

/-! Ownership: the test and the setting of TAKEN by EXTRACT (R61, R82), and the refusal of TAKEOVER (R62). -/

namespace Sys2Proof.Machine

/-! ### EXTRACT -/

/-- The first extraction: TAKEN and the response (R61). -/
theorem exec_extract_of_not_taken {s : State} (ha : s.accepts = true) (ht : s.taken = false) :
    exec .extract s = .next ((s.setTaken true).respond .ok) := by
  rw [exec_extract, ht]
  exact runCommand_admitted ha

/-- A second extraction, in either phase: the fatal halt (R61, R82). -/
theorem exec_extract_of_taken {s : State} (ha : s.accepts = true) (ht : s.taken = true) :
    exec .extract s = .next (s.raiseFatal .doubleExtraction) := by
  rw [exec_extract, ht]
  exact runCommand_fatal ha

/-- Settles O13: the two outcomes of an accepted EXTRACT, the only success with TAKEN = 0, the latch, and the halted block. -/
theorem extractSucceedsOnce : Obligations.ExtractSucceedsOnce :=
  ⟨fun s hh hs ht => exec_extract_of_not_taken (s.accepts_iff.mpr ⟨hh, hs⟩) ht,
    fun s hh hs ht => exec_extract_of_taken (s.accepts_iff.mpr ⟨hh, hs⟩) ht,
    fun s _ _ hh hs ht h hn => eq_extract_of_exec_not_taken (s.accepts_iff.mpr ⟨hh, hs⟩) ht h hn,
    fun _ _ hr ht h => step_keeps_taken hr h ht,
    fun _ hh => exec_notAccepted (accepts_of_halted hh) Instr.noConfusion⟩

/-! ### TAKEOVER -/

theorem decode_takeover : decode 0x020000000000000000 = .ok .takeover := decode_encode (i := .takeover) rfl

/-- Settles O14: the meaning refuses in every state, and a step that would accept the word runs that meaning. -/
theorem takeoverIsRefused : Obligations.TakeoverIsRefused := by
  refine ⟨decode_takeover, exec_takeover, fun s rest hr hh hs hc => ?_⟩
  rw [stepRunsPresentedCommand s _ rest _ hr hh hs hc decode_takeover, exec_takeover]

end Sys2Proof.Machine

/-! Configuration: what an admitted setter stores and answers (R65, R67, R68, R69, R70), the divisor calculator (R66), and
the values COMMIT writes (R72). -/

namespace Sys2Proof.Machine

/-! ### The setters -/

/-- The configuration a setter leaves, field by field: a SETCB that fails stores what stood there (R65, R67, R68, R69). -/
def setterCfg : Instr → Cfg → Cfg
  | .setcb clockHz baud, c =>
    { c with clk := (divisor clockHz baud).elim c.clk fun _ => clockHz, div := (divisor clockHz baud).getD c.div }
  | .setsb v, c => { c with stop := v }
  | .setcs v, c => { c with chsz := v }
  | .setmd v, c => { c with mode := v }
  | .extract, c | .takeover, c | .commit, c | .txb _, c => c

/-- The response of a setter; it does not depend on the state (R57, R65). -/
def setterRsp : Instr → Response
  | .setcb clockHz baud => (divisor clockHz baud).elim .incompatibleSettings fun _ => .ok
  | .extract | .takeover | .setsb _ | .setcs _ | .setmd _ | .commit | .txb _ => .ok

/-- Every setter where it is admitted: its configuration and its response, and nothing else. -/
theorem exec_setter {i : Instr} {s : State} (ha : s.accepts = true) (hc : s.configurable = true) (hw : i.reserved = none)
    (hk : (setterKind i).isSome = true) : exec i s = .next ((s.setCfg (setterCfg i s.cfg)).respond (setterRsp i)) := by
  cases i with
  | setcb clockHz baud =>
    rw [exec_setcb, hw, hc, runCommand_admitted ha]
    obtain ⟨d, hd, he⟩ | ⟨hd, he⟩ := setcbEffect_cases clockHz baud s
    · rw [he]; simp [setterCfg, setterRsp, hd]
    · rw [he]; simp [setterCfg, setterRsp, hd, State.setCfg]
  | setsb v => rw [exec_setsb, hw, hc, runCommand_admitted ha]; rfl
  | setcs v => rw [exec_setcs, hw, hc, runCommand_admitted ha]; rfl
  | setmd v => rw [exec_setmd, hw, hc, runCommand_admitted ha]; rfl
  | extract | takeover | commit | txb => nomatch hk

/-- Setters of different kinds store in different fields (R70). -/
theorem setterCfg_comm {i j : Instr} (h : setterKind i ≠ setterKind j) (c : Cfg) :
    setterCfg j (setterCfg i c) = setterCfg i (setterCfg j c) := by
  cases i with
  | setcb _ _ => cases j with
    | setcb _ _ => exact absurd rfl h
    | _ => rfl
  | setsb _ => cases j with
    | setsb _ => exact absurd rfl h
    | _ => rfl
  | setcs _ => cases j with
    | setcs _ => exact absurd rfl h
    | _ => rfl
  | setmd _ => cases j with
    | setmd _ => exact absurd rfl h
    | _ => rfl
  | extract | takeover | commit | txb => rfl

/-- Of two setters of the same kind the second, where it succeeds, stores every field the first did (R70). -/
theorem setterCfg_overwrites {i j : Instr} (h : setterKind i = setterKind j) (hj : setterRsp j = .ok) (c : Cfg) :
    setterCfg j (setterCfg i c) = setterCfg j c := by
  cases i with
  | setcb _ _ => cases j with
    | setcb clockHz baud =>
      cases hd : divisor clockHz baud with
      | none => simp [setterRsp, hd] at hj
      | some d => simp [setterCfg, hd]
    | _ => nomatch h
  | setsb _ => cases j with
    | setsb _ => rfl
    | _ => nomatch h
  | setcs _ => cases j with
    | setcs _ => rfl
    | _ => nomatch h
  | setmd _ => cases j with
    | setmd _ => rfl
    | _ => nomatch h
  | extract | takeover | commit | txb => rfl

/-- Settles O18: the responses do not depend on the order, and the configurations are those of `setterCfg_comm` and
`setterCfg_overwrites`. -/
theorem settersCommuteOnDisjointFields : Obligations.SettersCommuteOnDisjointFields := by
  intro s i j hh hs ht hp hwi hwj hki hkj
  have hi {t : State} (ha : t.accepts = true) (hc : t.configurable = true) :=
    exec_setter ha hc (Option.isNone_iff_eq_none.mp hwi) hki
  have hj {t : State} (ha : t.accepts = true) (hc : t.configurable = true) :=
    exec_setter ha hc (Option.isNone_iff_eq_none.mp hwj) hkj
  have ha : s.accepts = true := s.accepts_iff.mpr ⟨hh, hs⟩
  have hc : s.configurable = true := s.configurable_iff.mpr ⟨ht, hp⟩
  refine ⟨_, _, _, _, hi ha hc, hj ha hc, hj ha hc, hi ha hc, fun hne => ?_, fun heq hok => ?_⟩
  · exact congrArg (fun c => { s with cfg := c, rsp := [] }) (setterCfg_comm hne s.cfg)
  · exact setterCfg_overwrites heq (by simpa using hok) s.cfg

/-- Settles O17: a value of the domain is not reserved, and the setter stores it. -/
theorem selectorSettersStore : Obligations.SelectorSettersStore := by
  intro s v hh hs ht hp
  have ha : s.accepts = true := s.accepts_iff.mpr ⟨hh, hs⟩
  have hc : s.configurable = true := s.configurable_iff.mpr ⟨ht, hp⟩
  exact ⟨fun hv => exec_setter ha hc (if_pos ((legalStop_iff v).mpr hv)) rfl,
    fun hv => exec_setter ha hc (if_pos ((legalChsz_iff v).mpr hv)) rfl,
    fun hv => exec_setter ha hc (if_pos ((legalMode_iff v).mpr hv)) rfl⟩

/-! ### The divisor calculator -/

/-- The calculator succeeds past both of its tests, with the floor-divided number (R65). -/
theorem divisor_eq_some_iff {clockHz baud : Operand} {d : Divisor} :
    divisor clockHz baud = some d ↔
      (16 * baud.toNat ≤ clockHz.toNat ∧ clockHz.toNat / (16 * baud.toNat) - 1 ≤ 4095) ∧
        BitVec.ofNat 12 (clockHz.toNat / (16 * baud.toNat) - 1) = d := by
  simp [divisor, Config.divMax, and_assoc]

/-- It fails at the underflow guard or at the range check (R65). -/
theorem divisor_eq_none_iff {clockHz baud : Operand} :
    divisor clockHz baud = none ↔
      16 * baud.toNat > clockHz.toNat ∨ clockHz.toNat / (16 * baud.toNat) - 1 > 4095 := by
  simp [divisor, Config.divMax]
  omega

/-- Settles O15: the two outcomes of the calculator, each with the configuration and the response of SETCB. -/
theorem setcbStoresOrRejects : Obligations.SetcbStoresOrRejects := by
  intro s clockHz baud hh hs ht hp hb
  rw [exec_setter (i := .setcb clockHz baud) (s.accepts_iff.mpr ⟨hh, hs⟩) (s.configurable_iff.mpr ⟨ht, hp⟩)
    (if_neg hb) rfl]
  refine ⟨fun hfits => ?_, fun hfails => ?_⟩
  · have hd := divisor_eq_some_iff.mpr ⟨hfits, rfl⟩
    simp [setterCfg, setterRsp, hd, State.setCfg, State.respond]
  · have hd := divisor_eq_none_iff.mpr hfails
    simp [setterCfg, setterRsp, hd, State.setCfg, State.respond]

/-- The two tests of the calculator as bounds on the clock (R66). -/
theorem divisor_tests_iff {clock baud : Nat} (hb : 0 < baud) :
    (16 * baud ≤ clock ∧ clock / (16 * baud) - 1 ≤ 4095) ↔ 16 * baud ≤ clock ∧ clock < 65552 * baud := by
  have hq : clock / (16 * baud) < 4097 ↔ clock < 4097 * (16 * baud) := Nat.div_lt_iff_lt_mul (by omega)
  omega

/-- Settles O16: the bounds of `divisor_tests_iff`, and the floor division with its remainder. -/
theorem divisorIsExactFloor : Obligations.DivisorIsExactFloor := by
  intro clockHz baud hb
  have hpos : 0 < baud.toNat := by bv_omega
  refine ⟨by omega, ?_, fun d hd => ?_⟩
  · rw [← divisor_tests_iff hpos, Option.isSome_iff_exists]
    simp only [divisor_eq_some_iff, exists_and_left, exists_eq', and_true]
  · obtain ⟨⟨hle, hmax⟩, hofNat⟩ := divisor_eq_some_iff.mp hd
    have hq : 1 ≤ clockHz.toNat / (16 * baud.toNat) := Nat.div_pos hle (by omega)
    have hexact : d.toNat = clockHz.toNat / (16 * baud.toNat) - 1 := by
      rw [← hofNat]
      exact Nat.mod_eq_of_lt (by omega)
    have hlow := Nat.mul_div_le clockHz.toNat (16 * baud.toNat)
    have hhigh := Nat.lt_mul_div_succ clockHz.toNat (show 0 < 16 * baud.toNat by omega)
    rw [show clockHz.toNat / (16 * baud.toNat) = d.toNat + 1 by omega] at hlow hhigh
    exact ⟨hq, hexact, hlow, hhigh⟩

/-! ### The values of COMMIT -/

theorem toNat_divLow (d : Divisor) : (divLow d).toNat = d.toNat % 256 := by simp [divLow]

theorem toNat_divHigh (d : Divisor) : (divHigh d).toNat = d.toNat / 256 := by
  simp [divHigh, Nat.shiftRight_eq_div_pow]
  omega

/-- The bits of CFG.STOP and CFG.CHSZ do not meet (R72). -/
theorem stop_and_chsz_eq_zero {stop chsz : Byte} (hs : stop ∈ ([0, 8] : List Byte))
    (hc : chsz ∈ ([0, 2, 4, 6] : List Byte)) : stop &&& chsz = 0 :=
  (by decide : ∀ a ∈ ([0, 8] : List Byte), ∀ b ∈ ([0, 2, 4, 6] : List Byte), a &&& b = 0) _ hs _ hc

/-- Settles O21: the two bytes of the divisor, and OR as the sum where no bit is shared. -/
theorem commitValuesSplitAndCombine : Obligations.CommitValuesSplitAndCombine := by
  intro c
  have hlow : (commitValue c 0).toNat = c.div.toNat % 256 := toNat_divLow c.div
  have hhigh : (commitValue c 1).toNat = c.div.toNat / 256 := toNat_divHigh c.div
  have hdiv := c.div.isLt
  refine ⟨⟨hlow, hhigh, by omega, by omega⟩, fun hs hc => ?_, rfl, rfl⟩
  have hand := stop_and_chsz_eq_zero hs hc
  have hframe : commitValue c 2 = c.stop + c.chsz := (BitVec.add_eq_or_of_and_eq_zero _ _ hand).symm
  exact ⟨hand, rfl, hframe, hframe ▸ BitVec.toNat_add_of_and_eq_zero hand⟩

end Sys2Proof.Machine

/-! The transmit command: the two ready tests (R75), and the run of one TXB (R76, R78). -/

namespace Sys2Proof

/-! ### The ready test -/

/-- The ready test at reset is the normative one (R75, D8). -/
theorem Config.params_readyTest : Config.params.readyTest = .mask := by
  unfold Config.params
  simp only
  split <;> rfl

/-- READY_BIT is the power of two at READY_POS (R16). -/
theorem Params.readyBit_eq_twoPow (hw : Params) : hw.readyBit = BitVec.twoPow 8 hw.readyPos.val := rfl

/-- A value reaches a power of two exactly where it has a bit at or above that place. -/
theorem two_pow_le_toNat_iff {w p : Nat} {v : BitVec w} : 2 ^ p ≤ v.toNat ↔ ∃ i, p ≤ i ∧ v.getLsbD i = true := by
  constructor
  · exact Nat.exists_ge_and_testBit_of_ge_two_pow
  · rintro ⟨i, hi, hbit⟩
    exact (Nat.pow_le_pow_right (by omega) hi).trans (Nat.ge_two_pow_of_testBit hbit)

/-- The same, with the bit at that place and the bits above it apart. -/
theorem two_pow_le_toNat_iff_or {w p : Nat} {v : BitVec w} :
    2 ^ p ≤ v.toNat ↔ v.getLsbD p = true ∨ ∃ i, p < i ∧ v.getLsbD i = true := by
  rw [two_pow_le_toNat_iff]
  simp only [le_iff_eq_or_lt, or_and_right, exists_or, exists_eq_left']

namespace Machine

/-- The mask test is the ready bit (R75). -/
theorem ready_of_mask {hw : Params} (h : hw.readyTest = .mask) (v : Byte) : ready hw v = v.getLsbD hw.readyPos.val := by
  have hpow : BitVec.twoPow 8 hw.readyPos.val ≠ 0#8 := by
    simp [← BitVec.toNat_inj, BitVec.toNat_twoPow_of_lt hw.readyPos.isLt]
  simp only [ready, h, hw.readyBit_eq_twoPow, BitVec.and_twoPow]
  cases v.getLsbD hw.readyPos.val with
  | true => simp [hpow]
  | false => simp

/-- The threshold test is a comparison of numbers (R75). -/
theorem ready_iff_of_threshold {hw : Params} (h : hw.readyTest = .threshold) (v : Byte) :
    ready hw v = true ↔ 2 ^ hw.readyPos.val ≤ v.toNat := by
  simp only [ready, h, decide_eq_true_eq, BitVec.le_def, hw.readyBit_eq_twoPow,
    BitVec.toNat_twoPow_of_lt hw.readyPos.isLt]

/-- Settles O32: the threshold test asks for the ready bit, which is the mask test, or for a higher bit; above bit 7 there
is none. -/
theorem readyPredicates : Obligations.ReadyPredicates := by
  refine ⟨Config.params_readyTest, fun hw v => ?_⟩
  have hmask := ready_of_mask (hw := { hw with readyTest := .mask }) rfl v
  have hthreshold := ready_iff_of_threshold (hw := { hw with readyTest := .threshold }) rfl v
  have hbits := hthreshold.trans two_pow_le_toNat_iff_or
  have hdiffer : ready { hw with readyTest := .mask } v ≠ ready { hw with readyTest := .threshold } v ↔
      v.getLsbD hw.readyPos.val = false ∧ ∃ i, hw.readyPos.val < i ∧ v.getLsbD i = true := by
    rw [hmask]
    cases hb : v.getLsbD hw.readyPos.val with
    | true => simp [hbits.mpr (.inl hb)]
    | false =>
      rw [hb] at hbits
      simpa using hbits
  refine ⟨hmask, hthreshold, fun h => hbits.mpr (.inl (hmask.symm.trans h)), hdiffer, fun h7 => ?_⟩
  by_contra hne
  obtain ⟨-, i, hi, hbit⟩ := hdiffer.mp hne
  have hi8 : 8 ≤ i := by rwa [h7] at hi
  rw [BitVec.getLsbD_of_ge v i hi8] at hbit
  cases hbit

/-! ### The run of one TXB -/

/-- Settles O35: `steps_txb` gives the state at the end of the TXB, and DATA holds what was written last. -/
theorem txbCompletesWhenPeripheralReady : Obligations.TxbCompletesWhenPeripheralReady := by
  intro s b n hr hh hq hn hv
  obtain ⟨i, hi, hafter⟩ := steps_txb hr hh hq hn hv
  have hdata : (s.sent b n i).rf .data = some b := Memory.read_write_same _ _ _
  exact ⟨_, hi, rfl, hh, rfl, rfl, hdata, rfl, rfl, rfl, rfl, hafter.cmds⟩

/-- Settles O36: `steps_poll_notReady`, whose end state differs from the first one in BUS and the answers to come only. -/
theorem txbPollsWithoutBound : Obligations.TxbPollsWithoutBound := by
  intro s b n hr hh hq hn
  obtain ⟨i, hi, hafter⟩ := steps_poll_notReady hr hh hq hn
  exact ⟨_, hi, hq, hh, rfl, rfl, rfl, rfl, hafter.cmds⟩

end Machine

end Sys2Proof

/-! The lifecycle (R83, R88): which commands each state admits, and what is done with the others. -/

namespace Sys2Proof.Machine

/-! ### The fatal error Misuse -/

/-- Every command but EXTRACT and TAKEOVER, presented where it is not admitted: the fatal halt (R83, R85). -/
theorem exec_misuse {i : Instr} {s : State} (ha : s.accepts = true) (hw : i.reserved = none) (hextract : i ≠ .extract)
    (htakeover : i ≠ .takeover) (htxb : (∃ b, i = .txb b) → s.transmittable = false)
    (hcfg : (¬ ∃ b, i = .txb b) → s.configurable = false) : exec i s = .next (s.raiseFatal .misuse) := by
  cases i with
  | extract => exact absurd rfl hextract
  | takeover => exact absurd rfl htakeover
  | setcb _ _ => rw [exec_setcb, hw, hcfg (by simp), runCommand_fatal ha]
  | setsb _ => rw [exec_setsb, hw, hcfg (by simp), runCommand_fatal ha]
  | setcs _ => rw [exec_setcs, hw, hcfg (by simp), runCommand_fatal ha]
  | setmd _ => rw [exec_setmd, hw, hcfg (by simp), runCommand_fatal ha]
  | commit => rw [exec_commit, hcfg (by simp), runCommand_fatal ha]
  | txb b => rw [exec_txb, htxb ⟨b, rfl⟩, runCommand_fatal ha]

/-- Settles O22: `exec_misuse`, with the lifecycle states written as TAKEN and PHASE. -/
theorem misuseIsFatal : Obligations.MisuseIsFatal := by
  intro s i hh hs hw hextract htakeover htxb hcfg
  exact exec_misuse (s.accepts_iff.mpr ⟨hh, hs⟩) (Option.isNone_iff_eq_none.mp hw) hextract htakeover
    (fun hi => Bool.eq_false_iff.mpr fun ht => htxb hi (s.transmittable_iff.mp ht))
    (fun hi => Bool.eq_false_iff.mpr fun hc => hcfg hi (s.configurable_iff.mp hc))

/-! ### The table of R88, read by verdict -/

/-- With SEQ = Idle a fatal halt changes HALT and CAUSE alone (R86). -/
theorem State.raiseFatal_of_idle (s : State) (hs : s.seq = .idle) (c : Cause) :
    s.raiseFatal c = { s with halt := some c } :=
  congrArg (fun q => { s with halt := some c, seq := q }) hs.symm

/-- The commands a lifecycle state admits: the cells of the table that say OK (R88). -/
def Admitted (i : Instr) (taken : Bool) (phase : Phase) : Prop :=
  (i = .extract ∧ taken = false) ∨
  ((setterKind i).isSome = true ∧ taken = true ∧ phase = .unconfigured) ∨
  (i = .commit ∧ taken = true ∧ phase = .unconfigured) ∨
  ((∃ b, i = .txb b) ∧ taken = true ∧ phase = .initialized)

/-- The rows of the table, gathered by verdict: which command in which lifecycle state has that cell (R88). -/
theorem lifecycleTable_cases (i : Instr) (taken : Bool) (phase : Phase) :
    (lifecycleTable i taken phase = .ok ∧ Admitted i taken phase) ∨
    (lifecycleTable i taken phase = .doubleExtraction ∧ i = .extract ∧ taken = true) ∨
    (lifecycleTable i taken phase = .misuse ∧ i ≠ .extract ∧ i ≠ .takeover ∧
      ((∃ b, i = .txb b) → ¬ (taken = true ∧ phase = .initialized)) ∧
      ((¬ ∃ b, i = .txb b) → ¬ (taken = true ∧ phase = .unconfigured))) ∨
    (lifecycleTable i taken phase = .refused ∧ i = .takeover) := by
  unfold lifecycleTable
  split <;> simp_all [setterKind, Admitted]

/-- A command in the state that admits it goes on to a state with HALT = 0 (R88). -/
theorem exec_admitted {i : Instr} {s : State} (ha : s.accepts = true) (hw : i.reserved = none)
    (h : Admitted i s.taken s.phase) : ∃ t, exec i s = .next t ∧ t.halt = none := by
  obtain ⟨hh, -⟩ := s.accepts_iff.mp ha
  obtain ⟨rfl, ht⟩ | ⟨hsetter, hstate⟩ | ⟨rfl, hstate⟩ | ⟨⟨b, rfl⟩, hstate⟩ := h
  · exact ⟨_, exec_extract_of_not_taken ha ht, hh⟩
  · exact ⟨_, exec_setter ha (s.configurable_iff.mpr hstate) hw hsetter, hh⟩
  · rw [exec_commit, s.configurable_iff.mpr hstate]
    exact ⟨_, runCommand_admitted ha, hh⟩
  · rw [exec_txb, s.transmittable_iff.mpr hstate]
    exact ⟨_, runCommand_admitted ha, hh⟩

/-- Settles O23: one case for each verdict of the table; the Misuse cells are O22. The state without a column needs no case
of its own, since the table's definition answers there as the commands do (log 18). -/
theorem lifecycleTableHolds : Obligations.LifecycleTableHolds := by
  intro s i hh hs hw _
  have ha : s.accepts = true := s.accepts_iff.mpr ⟨hh, hs⟩
  obtain ⟨hcell, hadmitted⟩ | ⟨hcell, rfl, ht⟩ | ⟨hcell, hextract, htakeover, htxb, hcfg⟩ | ⟨hcell, rfl⟩ :=
    lifecycleTable_cases i s.taken s.phase <;> rw [hcell]
  · exact exec_admitted ha (Option.isNone_iff_eq_none.mp hw) hadmitted
  · exact (exec_extract_of_taken ha ht).trans (congrArg _ (s.raiseFatal_of_idle hs _))
  · exact (misuseIsFatal s i hh hs hw hextract htakeover htxb hcfg).trans (congrArg _ (s.raiseFatal_of_idle hs _))
  · exact exec_takeover s

end Sys2Proof.Machine
